-- ==== Sys2Proof/Word.lean ====
section
/-! DEFINITION. The widths of the block's values (00_scope.md R5, R6; 30_encoding.md R58). -/

namespace Sys2Proof

/-- A `u64`: state word, seed, raw output, response data (00_scope.md R5 `W`, R6). -/
abbrev Word := BitVec 64

/-- A 32-bit operand or result of `INT` (00_scope.md R5 `IW`). -/
abbrev Half := BitVec 32

/-- A command word `CW = {op[3:0], arg[63:0]}` (30_encoding.md R58). -/
abbrev CmdWord := BitVec 68

/-- The opcode field `CW[67:64]` (30_encoding.md R58). -/
abbrev Opcode := BitVec 4

end Sys2Proof
end

