-- ==== Sys2Proof/Syntax.lean ====
section
/-! DEFINITION. The commands of the block, one constructor per row of spec/opcode_table.json, and the
pseudo-commands of 30_encoding.md R66. -/

namespace Sys2Proof

/-- The command set `X256-C1` (30_encoding.md R58) and the row of the illegal opcodes. Ignored bits (R61) are no
part of a command. -/
inductive Instr where
  /-- `INIT seed` (40_seed_expander.md R80). -/
  | init (seed : Word)
  /-- `NEXT` (41_core_transition.md R90). -/
  | next
  /-- `DBL` (42_formatters.md R105). -/
  | dbl
  /-- `INT from, to` (42_formatters.md R110); `from` and `to` are words of Lean's, so the operands are called `frm` and `upto`. -/
  | int (frm upto : Half)
  /-- `JUMP` (43_jump.md R130). -/
  | jump
  /-- `LJUMP` (43_jump.md R131). -/
  | ljump
  /-- `SETS k, v` (44_state_access.md R151). -/
  | sets (k : Fin 4) (v : Word)
  /-- `GETS k` (44_state_access.md R150). -/
  | gets (k : Fin 4)
  /-- No command: a word whose opcode is 6 or 7 (30_encoding.md R63, 60_exceptions.md R160), with that opcode. -/
  | illegal (op : Opcode)
  deriving DecidableEq, Repr

/-- The mnemonic of the row of spec/opcode_table.json a command belongs to. -/
def Instr.mnemonic : Instr → String
  | .init _ => "INIT"
  | .next => "NEXT"
  | .dbl => "DBL"
  | .int _ _ => "INT"
  | .jump => "JUMP"
  | .ljump => "LJUMP"
  | .sets _ _ => "SETS"
  | .gets _ => "GETS"
  | .illegal _ => "(illegal)"

/-- The pseudo-command `LOADS a, b, c, d` (30_encoding.md R66). -/
def Instr.loads (a b c d : Word) : List Instr := [.sets 0 a, .sets 1 b, .sets 2 c, .sets 3 d]

/-- The pseudo-command `READS` (30_encoding.md R66). -/
def Instr.reads : List Instr := [.gets 0, .gets 1, .gets 2, .gets 3]

end Sys2Proof
end

