-- ==== Sys2Proof/Machine/State.lean ====
section
/-! DEFINITION. The state of the block, as plain data: everything 10_state.md and 30_encoding.md give it, and the
model's own bookkeeping of what the host does and how fast the implementation is. INVENTORY.md lists every field. -/

namespace Sys2Proof.Machine

/-- The Generator State `S[0..3]`, "an ordered, fixed-size sequence of exactly four 64-bit unsigned integers"
(10_state.md R20). -/
structure GenState where
  s0 : Word
  s1 : Word
  s2 : Word
  s3 : Word
  deriving DecidableEq, Repr

/-- A response: the error flag `rsp_err` and the data `rsp_data` (30_encoding.md R57). -/
structure Response where
  err  : Bool
  data : Word
  deriving DecidableEq, Repr

/-- The command in flight: the latched command word (10_state.md R27), and the implementation's choices for it. -/
structure InFlight where
  word       : CmdWord
  /-- How many more cycles pass before the one whose clock edge delivers the response (70_reset_and_hazards.md R198). -/
  wait       : Nat
  /-- Whether `cmd_ready` is 1 already in the response cycle (30_encoding.md R56). -/
  readyEarly : Bool
  deriving DecidableEq, Repr

/-- The implementation's timing choices for one command: `LAT = wait + 1` (70_reset_and_hazards.md R198), and when
`cmd_ready` rises again (30_encoding.md R56). -/
structure Pace where
  wait       : Nat
  readyEarly : Bool
  deriving DecidableEq, Repr

/-- What the host does on the ports in one cycle (70_reset_and_hazards.md R196: any word, at any time, with any gaps,
and reset at any time). -/
inductive HostAction where
  /-- `cmd_valid` = 1 with this word, this cycle and every following one until the command is accepted. -/
  | send (cw : CmdWord)
  /-- `cmd_valid` = 1 with this word in this cycle only, whether or not it is accepted. -/
  | offer (cw : CmdWord)
  /-- `cmd_valid` = 0 in this cycle. -/
  | pause
  /-- `rst` = 1 in this cycle; what the command port shows then does not matter (70_reset_and_hazards.md R186). -/
  | reset
  deriving DecidableEq, Repr

/-- The state of the block between two clock edges, with the model's own bookkeeping. -/
structure State where
  /-- `S[0..3]` (10_state.md R20). -/
  S        : GenState
  /-- The output port `cmd_ready` (30_encoding.md R55, R56). -/
  cmdReady : Bool
  /-- The output ports `rsp_valid` (it is 1 exactly when this is `some`), `rsp_err`, `rsp_data` (30_encoding.md R57). -/
  rsp      : Option Response
  /-- The command in flight, if there is one (10_state.md R27, 30_encoding.md R56: at most one). -/
  inFlight : Option InFlight
  /-- The model's own: what the host does in this cycle and the coming ones; nothing, when the list is empty (log entry 4). -/
  host     : List HostAction
  /-- The model's own: the timing choices for the coming commands; when the list is empty, Config's (log entry 2). -/
  paces    : List Pace
  /-- The model's own: the number of clock edges so far, an index for free values (log entry 5). -/
  cycle    : Nat
  deriving DecidableEq, Repr

/-- The reasons the block can stop: NONE. "One fault, `IllegalOp`, and no stuck state, no hang, no undefined result"
(00_scope.md R16), and `IllegalOp` is an error response after which the block goes on (60_exceptions.md R160, R165). So no
definition raises a fault. Safe: nothing the hardware does is cut off by it (log entry 14). -/
inductive Fault : Type
  deriving DecidableEq, Repr

/-- The reasons a command can have no meaning in the model. -/
inductive Refusal where
  /-- Raised by an arm of `exec` for an instruction that is not modelled; no arm does so. Safe: the model would stop where
  the hardware goes on. -/
  | notModelled (mnemonic : String)
  deriving DecidableEq, Repr

/-- What executing a command answers. -/
abbrev Result := Host.Outcome State Fault Refusal

/-- The zero state `(0, 0, 0, 0)` (00_scope.md glossary). -/
def GenState.zero : GenState := ⟨0, 0, 0, 0⟩

/-- The block after reset (10_state.md R31, 70_reset_and_hazards.md R185): all four words zero, `cmd_ready` = 1,
`rsp_valid` = 0, no command in flight. The model's own fields are empty or zero (log entries 2, 4, 5). -/
def State.reset : State where
  S        := GenState.zero
  cmdReady := true
  rsp      := none
  inFlight := none
  host     := []
  paces    := []
  cycle    := 0

end Sys2Proof.Machine
end

