-- ==== Sys2Proof/Machine/Flags.lean ====
section
/-! DEFINITION. The block has no flag register (10_state.md R24): no command sets or reads a carry, overflow, zero or
sign flag. The one flag there is, the error flag of a response, "belongs to that one response and is not stored". -/

namespace Sys2Proof.Machine

/-- The response of a command that completes: `rsp_err` = 0 (30_encoding.md R57, R69). -/
def Response.ok (data : Word) : Response := ⟨false, data⟩

/-- The cause code of `IllegalOp` (60_exceptions.md R160). -/
def illegalOpCause : Word := 1

/-- The response of an illegal opcode: `rsp_err` = 1, `rsp_data` the cause code zero-extended (60_exceptions.md R160). -/
def Response.illegalOp : Response := ⟨true, illegalOpCause⟩

end Sys2Proof.Machine
end

