-- ==== Sys2Proof/Machine/Operands.lean ====
section
/-! DEFINITION. How operands are read: signed values, extensions and the index of a state word
(00_scope.md R10; 30_encoding.md R59, R60; 20_memory.md R41). -/

namespace Sys2Proof.Machine

/-- `signed(v)`: two's complement (00_scope.md R10). -/
def signed (v : Half) : Int := v.toInt

/-- `sext_64(v)`: copies of the most significant bit above (00_scope.md R10). -/
def sext64 (v : Half) : Word := v.signExtend 64

/-- `zext_64(v)`: zero bits above (00_scope.md R10). -/
def zext64 (v : Half) : Word := v.setWidth 64

/-- `S[k]`, read (20_memory.md R41): all four indexes are valid. -/
def GenState.get (g : GenState) (k : Fin 4) : Word :=
  match k with
  | 0 => g.s0
  | 1 => g.s1
  | 2 => g.s2
  | 3 => g.s3

/-- `S[k] <- v` (20_memory.md R41, R44): the whole word, and no other. -/
def GenState.set (g : GenState) (k : Fin 4) (v : Word) : GenState :=
  match k with
  | 0 => { g with s0 := v }
  | 1 => { g with s1 := v }
  | 2 => { g with s2 := v }
  | 3 => { g with s3 := v }

end Sys2Proof.Machine
end

