-- ==== Sys2Proof/Machine/Ops.lean ====
section
/-! DEFINITION. The primitives of 00_scope.md R7 to R12, responding, and taking the one exception. -/

namespace Sys2Proof.Machine

/-- `(a + b) mod 2^64` (00_scope.md R7). -/
def add64 (a b : Word) : Word := a + b

/-- The low 64 bits of the product (00_scope.md R7). -/
def mul64 (a b : Word) : Word := a * b

/-- Bitwise exclusive or (00_scope.md R7). -/
def xor64 (a b : Word) : Word := a ^^^ b

/-- Bitwise inclusive or (00_scope.md R7). -/
def or64 (a b : Word) : Word := a ||| b

/-- Logical left shift, zeros enter at bit 0 (00_scope.md R7). -/
def shl64 (x : Word) (k : Nat) : Word := x <<< k

/-- Logical right shift, zeros enter at bit 63 (00_scope.md R7). -/
def shr64 (x : Word) (k : Nat) : Word := x >>> k

/-- Rotation left, `0 < k < 64` (00_scope.md R8). -/
def rotl64 (x : Word) (k : Nat) : Word := or64 (shl64 x k) (shr64 x (64 - k))

/-- The unsigned remainder, `b ≠ 0` (00_scope.md R9). -/
def umod (a b : Word) : Word := a % b

/-- The index of the most significant 1 bit of `x` among bits `p` down to 0; 0 if there is none. -/
def msbFrom (x : Word) : Nat → Nat
  | 0 => 0
  | p + 1 => if x.getLsbD (p + 1) then p + 1 else msbFrom x p

/-- `msb(x)`, `x ≠ 0`: the index of the most significant 1 bit (00_scope.md R11). -/
def msb (x : Word) : Nat := msbFrom x 63

/-- Word by word exclusive or of two states, the addition of the vector space over GF(2) (00_scope.md glossary;
43_jump.md R134). -/
def GenState.xor (a b : GenState) : GenState :=
  ⟨xor64 a.s0 b.s0, xor64 a.s1 b.s1, xor64 a.s2 b.s2, xor64 a.s3 b.s3⟩

/-- `respond(data)`: the response with `rsp_err` = 0 (00_scope.md R12, 30_encoding.md R57). -/
def respond (data : Word) (s : State) : Result := .next { s with rsp := some (Response.ok data) }

/-- Taking the exception `IllegalOp`: "the response is the whole of the exception" (60_exceptions.md R160). No register
saves anything, nothing else changes, and there is no handler (R164); so there is no return either (R165): the block accepts
the next command as after any other response. -/
def raiseIllegalOp (s : State) : Result := .next { s with rsp := some Response.illegalOp }

end Sys2Proof.Machine
end

