-- ==== Sys2Proof/Machine/CoreTransition.lean ====
section
/-! DEFINITION. The Core Transition (41_core_transition.md): the output function, the state update, and `NEXT`. -/

namespace Sys2Proof.Machine

/-- The output function `out()`, which reads `S[1]` only (41_core_transition.md R91). -/
def GenState.out (g : GenState) : Word := mul64 (rotl64 (mul64 g.s1 5) 7) 9

/-- The state update `step()`: the six assignments of 41_core_transition.md R92, in their order. -/
def GenState.step (g : GenState) : GenState :=
  let t := shl64 g.s1 17
  let s2 := xor64 g.s2 g.s0
  let s3 := xor64 g.s3 g.s1
  let s1 := xor64 g.s1 s2
  let s0 := xor64 g.s0 s3
  let s2 := xor64 s2 t
  let s3 := rotl64 s3 45
  ⟨s0, s1, s2, s3⟩

/-- `unstep`, which recovers the old state from the new one; no command performs it (41_core_transition.md R94). -/
def GenState.unstep (g : GenState) : GenState :=
  let a := rotl64 g.s3 19
  let s0 := xor64 g.s0 a
  let w := xor64 g.s1 g.s2
  let s1 := xor64 (xor64 (xor64 w (shl64 w 17)) (shl64 w 34)) (shl64 w 51)
  let s2 := xor64 (xor64 g.s1 s1) s0
  let s3 := xor64 a s1
  ⟨s0, s1, s2, s3⟩

/-- The `S[1]` a raw output was computed from; no command performs it (41_core_transition.md R96). -/
def unout (v : Word) : Word := mul64 (rotl64 (mul64 v 0x8E38E38E38E38E39) 57) 0xCCCCCCCCCCCCCCCD

/-- The state a draw leaves: one execution of `step()`; its raw value is `s.S.out`, of the state before
(00_scope.md glossary "Draw"). -/
def drawn (s : State) : State := { s with S := s.S.step }

/-- `NEXT` (41_core_transition.md R90): the output is taken from the state before it is changed. -/
def execNext (s : State) : Result :=
  let v := s.S.out
  respond v (drawn s)

end Sys2Proof.Machine
end

