-- ==== Sys2Proof/Machine/Exceptions.lean ====
section
/-! DEFINITION. The illegal opcodes (60_exceptions.md). -/

namespace Sys2Proof.Machine

/-- A word with `op` 6 or 7 raises `IllegalOp` (60_exceptions.md R160). The block records nothing, the opcode included. -/
def execIllegal (_op : Opcode) (s : State) : Result := raiseIllegalOp s

end Sys2Proof.Machine
end

