-- ==== Sys2Proof/Machine/Formatters.lean ====
section
/-! DEFINITION. The Derived Value Formatters (42_formatters.md): the pure functions `fmt_dbl` and `fmt_int`, and the
commands `DBL` and `INT`. -/

namespace Sys2Proof.Machine

/-- `fmt_dbl` (42_formatters.md R107): the binary64 pattern of the raw value divided by 2^64, truncated to 53 significant
bits. -/
def fmtDbl (x : Word) : Word :=
  if x = 0 then 0
  else
    let p := msb x
    let n := shl64 x (63 - p)
    let f : BitVec 52 := n.extractLsb' 11 52
    let e : BitVec 11 := BitVec.ofNat 11 (959 + p)
    (0 : BitVec 1) ++ e ++ f

/-- The sign of a binary64 pattern, bit 63 (42_formatters.md R106). -/
def dblSign (b : Word) : Bool := b.getLsbD 63

/-- The biased exponent of a binary64 pattern, bits 62:52 (42_formatters.md R106). -/
def dblExponent (b : Word) : Nat := (b.extractLsb' 52 11).toNat

/-- The fraction of a binary64 pattern, bits 51:0 (42_formatters.md R106). -/
def dblFraction (b : Word) : Nat := (b.extractLsb' 0 52).toNat

/-- The number a binary64 pattern stands for (42_formatters.md R106): zero, or a normal number; `none` for the patterns
whose value that rule does not give, which `fmt_dbl` never produces (R108; log entry 12). -/
def dblValue (b : Word) : Option ℚ :=
  if dblExponent b = 0 then
    if dblFraction b = 0 then some 0 else none
  else if dblExponent b = 2047 then none
  else some ((if dblSign b then -1 else 1) * 2 ^ ((dblExponent b : Int) - 1023) * (1 + (dblFraction b : ℚ) / 2 ^ 52))

/-- `d = |to − from|`, the exact magnitude of the exact difference, held in 32 unsigned bits (42_formatters.md R111). -/
def intWidth (frm upto : Half) : Half := BitVec.ofNat 32 (signed upto - signed frm).natAbs

/-- `fmt_int` (42_formatters.md R111): `from` plus the unsigned remainder, modulo 2^32. -/
def fmtInt (frm upto : Half) (v : Word) : Half :=
  let d := intWidth frm upto
  let r := umod v (zext64 d)
  frm + r.setWidth 32

/-- `DBL` (42_formatters.md R105): one draw, exactly as `NEXT`. -/
def execDbl (s : State) : Result :=
  let v := s.S.out
  respond (fmtDbl v) (drawn s)

/-- `INT from, to` (42_formatters.md R110): equal bounds are answered before any draw (R112). -/
def execInt (frm upto : Half) (s : State) : Result :=
  if frm = upto then respond (sext64 frm) s
  else
    let v := s.S.out
    respond (sext64 (fmtInt frm upto v)) (drawn s)

end Sys2Proof.Machine
end

