-- ==== Sys2Proof/Machine/Jump.lean ====
section
/-! DEFINITION. The Subsequence Jump Functions (43_jump.md): the two tables, the algorithm, `JUMP` and `LJUMP`. -/

namespace Sys2Proof.Machine

/-- A jump table `P[0..3]` of four 64-bit constants (43_jump.md R134). -/
structure JumpTable where
  p0 : Word
  p1 : Word
  p2 : Word
  p3 : Word
  deriving DecidableEq, Repr

/-- The constants in table order. -/
def JumpTable.words (P : JumpTable) : List Word := [P.p0, P.p1, P.p2, P.p3]

/-- Bit `j mod 64` of `P[j / 64]`, the coefficient of `x^j` (43_jump.md R135). -/
def JumpTable.coeff (P : JumpTable) (j : Nat) : Bool := (P.words.getD (j / 64) 0).getLsbD (j % 64)

/-- `JUMP_POLY` (43_jump.md R132). -/
def jumpPoly : JumpTable :=
  ⟨0x180EC6D33CFD0ABA, 0xD5A61266F0C9392C, 0xA9582618E03FC9AA, 0x39ABDC4529B1661C⟩

/-- `LONG_JUMP_POLY` (43_jump.md R133). -/
def longJumpPoly : JumpTable :=
  ⟨0x76E15D3EFEFDCBBF, 0xC5004E441C522FB3, 0x77710069854EE241, 0x39109BB02ACBE635⟩

/-- The coefficients of `x^0` to `x^255` of the minimal polynomial of `step()`, whose leading term is `x^256`
(41_core_transition.md R97). No command uses it. -/
def stepPoly : JumpTable :=
  ⟨0x9D116F2BB0F0F001, 0x0280002BCEFD1A5E, 0x04B4EDCF26259F85, 0x0003C03C3F3ECB19⟩

/-- One iteration of 43_jump.md R134 on the accumulator and the state: the bit selects the state before this iteration's
`step()`, which happens whatever the bit. -/
def jumpIteration (bit : Bool) (a : GenState × GenState) : GenState × GenState :=
  (if bit then a.1.xor a.2 else a.1, a.2.step)

/-- The 64 iterations of one constant, bits from least to most significant (43_jump.md R134). -/
def jumpConstant (p : Word) (a : GenState × GenState) : GenState × GenState :=
  (List.range 64).foldl (fun a b => jumpIteration (p.getLsbD b) a) a

/-- `jump_with(P)` (43_jump.md R134): the state is overwritten by the final accumulator. -/
def jumpWith (P : JumpTable) (g : GenState) : GenState :=
  (P.words.foldl (fun a p => jumpConstant p a) (GenState.zero, g)).1

/-- `JUMP` (43_jump.md R130). -/
def execJump (s : State) : Result := respond 0 { s with S := jumpWith jumpPoly s.S }

/-- `LJUMP` (43_jump.md R131). -/
def execLjump (s : State) : Result := respond 0 { s with S := jumpWith longJumpPoly s.S }

end Sys2Proof.Machine
end

