-- ==== Sys2Proof/Machine/SeedExpander.lean ====
section
/-! DEFINITION. The Seed Expander (40_seed_expander.md): SplitMix64 mixing and `INIT`. -/

namespace Sys2Proof.Machine

/-- `GAMMA` (00_scope.md R5, 40_seed_expander.md R80). -/
def gamma : Word := 0x9E3779B97F4A7C15

/-- `MIX1` (40_seed_expander.md R81). -/
def mix1 : Word := 0xBF58476D1CE4E5B9

/-- `MIX2` (40_seed_expander.md R81). -/
def mix2 : Word := 0x94D049BB133111EB

/-- The mixing function `smix` (40_seed_expander.md R81). -/
def smix (a : Word) : Word :=
  let z := mul64 (xor64 a (shr64 a 30)) mix1
  let z := mul64 (xor64 z (shr64 z 27)) mix2
  xor64 z (shr64 z 31)

/-- The loop of 40_seed_expander.md R80: the addition comes before the mixing, and the accumulator keeps the sum for the
next word. -/
def expandSeed (seed : Word) : GenState :=
  let a := add64 seed gamma
  let w0 := smix a
  let a := add64 a gamma
  let w1 := smix a
  let a := add64 a gamma
  let w2 := smix a
  let a := add64 a gamma
  let w3 := smix a
  ⟨w0, w1, w2, w3⟩

/-- `INIT seed` (40_seed_expander.md R80, R85): the old state is not read. -/
def execInit (seed : Word) (s : State) : Result := respond 0 { s with S := expandSeed seed }

end Sys2Proof.Machine
end

