-- ==== Sys2Proof/Machine/StateAccess.lean ====
section
/-! DEFINITION. Direct state access (44_state_access.md): `GETS` and `SETS`. -/

namespace Sys2Proof.Machine

/-- `GETS k` (44_state_access.md R150). -/
def execGets (k : Fin 4) (s : State) : Result := respond (s.S.get k) s

/-- `SETS k, v` (44_state_access.md R151): any value, unchecked. -/
def execSets (k : Fin 4) (v : Word) (s : State) : Result := respond 0 { s with S := s.S.set k v }

end Sys2Proof.Machine
end

