-- ==== Sys2Proof/Machine/Dispatch.lean ====
section
/-! DEFINITION. One arm per constructor of Instr. -/

namespace Sys2Proof.Machine

def exec (i : Instr) (s : State) : Host.Outcome State Fault Refusal :=
  match i with
  | .init seed => Sys2Proof.Machine.execInit seed s
  | .next => Sys2Proof.Machine.execNext s
  | .dbl => Sys2Proof.Machine.execDbl s
  | .int frm upto => Sys2Proof.Machine.execInt frm upto s
  | .jump => Sys2Proof.Machine.execJump s
  | .ljump => Sys2Proof.Machine.execLjump s
  | .sets k v => Sys2Proof.Machine.execSets k v s
  | .gets k => Sys2Proof.Machine.execGets k s
  | .illegal op => Sys2Proof.Machine.execIllegal op s

end Sys2Proof.Machine
end

