-- ==== Sys2Proof/Config.lean ====
section
/-! DEFINITION. What an implementation of the block chooses and the spec leaves open: opaque constants, so that no
proof can see a value. They are indexed by the number of the cycle, so each occurrence may differ. -/

namespace Sys2Proof

/-- FREE VALUE, DESIGN CHOICE (log entry 2): the number of cycles beyond the first that the command word accepted in
the given cycle takes, so that `LAT = Config.latency + 1`: "any finite value ≥ 1 an implementation likes, possibly
different per command and per occurrence" (70_reset_and_hazards.md R198). -/
opaque Config.latency : Nat → CmdWord → Nat

/-- FREE VALUE, DESIGN CHOICE (log entry 2): whether `cmd_ready` is 1 already in the cycle of the response of the
command accepted in the given cycle, or only in the cycle after it (30_encoding.md R56 allows both). -/
opaque Config.readyEarly : Nat → CmdWord → Bool

/-- FREE VALUE, DESIGN CHOICE (log entry 3): what the port `rsp_data` shows in a cycle with `rsp_valid` = 0
(93_implementation_defined.md U6, `any value`). -/
opaque Config.undrivenData : Nat → Word

/-- FREE VALUE, DESIGN CHOICE (log entry 3): what the port `rsp_err` shows in a cycle with `rsp_valid` = 0
(93_implementation_defined.md U6, `any value`). -/
opaque Config.undrivenErr : Nat → Bool

end Sys2Proof
end

