-- ==== Sys2Proof/WellFormed.lean ====
section
/-! DEFINITION. Which terms of `Instr` stand for words of the encoding. -/

namespace Sys2Proof

/-- The widths of the operands are in their types, so every operand of the eight commands is well formed (every seed,
every `from` and `to`, every `v`, every index: 60_exceptions.md R161). The one check: an illegal word carries one of the
two opcodes that are illegal, 6 and 7 (30_encoding.md R63). -/
def Instr.wellFormed : Instr → Bool
  | .init _ | .next | .dbl | .int _ _ | .jump | .ljump | .sets _ _ | .gets _ => true
  | .illegal op => op == 6 || op == 7

end Sys2Proof
end

