-- ==== Sys2Proof/Decode.lean ====
section
/-! DEFINITION. The command word (30_encoding.md R58 to R63): the decoder, total on command words and rejecting a
number that is no command word by name; the encoder; the opcode table as rows of match and mask. -/

namespace Sys2Proof

/-- The field `op = CW[67:64]` (30_encoding.md R58). -/
def opField (cw : CmdWord) : Opcode := cw.extractLsb' 64 4

/-- The field `arg = CW[63:0]` (30_encoding.md R58), which is `seed` in format S and `v` in format K (R59). -/
def argField (cw : CmdWord) : Word := cw.extractLsb' 0 64

/-- The field `from`, bits 31:0 of format R (30_encoding.md R59). -/
def fromField (cw : CmdWord) : Half := cw.extractLsb' 0 32

/-- The field `to`, bits 63:32 of format R (30_encoding.md R59). -/
def toField (cw : CmdWord) : Half := cw.extractLsb' 32 32

/-- The field `k`, bits 65:64 of formats K and KN, unsigned (30_encoding.md R59, R60). -/
def kField (cw : CmdWord) : Fin 4 := (cw.extractLsb' 64 2).toFin

/-- The decoder of 30_encoding.md R62: `CW[67]` = 1 selects `SETS` or `GETS` by `CW[66]`; otherwise `CW[66:64]` selects
the command, 6 and 7 being illegal. Ignored bits are not tested (R61). -/
def decode (cw : CmdWord) : Instr :=
  if cw.getLsbD 67 then
    if cw.getLsbD 66 then .gets (kField cw) else .sets (kField cw) (argField cw)
  else
    match (cw.extractLsb' 64 3).toFin with
    | 0 => .init (argField cw)
    | 1 => .next
    | 2 => .dbl
    | 3 => .int (fromField cw) (toField cw)
    | 4 => .jump
    | 5 => .ljump
    | 6 => .illegal (opField cw)
    | 7 => .illegal (opField cw)

/-- Why a number is no command. The decoder of command words itself rejects nothing: an illegal opcode decodes to
`Instr.illegal`, whose execution is the exception of 60_exceptions.md R160. -/
inductive DecodeError where
  /-- The number has a bit above bit 67, so it is no 68-bit command word (30_encoding.md R58, R64). Safe: nothing runs.
  DESIGN CHOICE, log entry 7. -/
  | widerThanCommandWord
  deriving DecidableEq, Repr

/-- Decoding a number read as bits: total, and it rejects by name what is no 68-bit word (30_encoding.md R64). -/
def decodeBits (w : Nat) : Except DecodeError Instr :=
  if w < 2 ^ 68 then .ok (decode (BitVec.ofNat 68 w)) else .error .widerThanCommandWord

/-- The instruction the decoder reads from the low `nbits` bits of `w`, every bit above them being 0. Bit 0 is the
least significant bit of the one word a command has, as in spec/opcode_table.json. -/
def decodeTableWord (nbits w : Nat) : Option Instr := (decodeBits (w % 2 ^ nbits)).toOption

/-- `{op, arg}`, op the more significant part (30_encoding.md R58). -/
def commandWord (op : Opcode) (arg : Word) : CmdWord := op ++ arg

/-- The canonical encoding, ignored bits zero (30_encoding.md R61, R65). The argument bits of an illegal word are
ignored (60_exceptions.md R160) and encoded as zero as well. -/
def encode : Instr → CmdWord
  | .init seed => commandWord 0 seed
  | .next => commandWord 1 0
  | .dbl => commandWord 2 0
  | .int frm upto => commandWord 3 (upto ++ frm)
  | .jump => commandWord 4 0
  | .ljump => commandWord 5 0
  | .sets k v => commandWord ((2 : BitVec 2) ++ BitVec.ofFin (w := 2) k) v
  | .gets k => commandWord ((3 : BitVec 2) ++ BitVec.ofFin (w := 2) k) 0
  | .illegal op => commandWord op 0

/-- One row of the opcode table: a word belongs to it when it agrees with `value` on the bits of `mask`. -/
structure OpcodeRow where
  mnemonic : String
  value    : CmdWord
  mask     : CmdWord
  deriving DecidableEq, Repr

/-- Whether a command word belongs to a row. -/
def OpcodeRow.covers (row : OpcodeRow) (cw : CmdWord) : Bool := (cw &&& row.mask) == row.value

/-- The match and mask values of 30_encoding.md R62, and of the illegal row of spec/opcode_table.json. -/
def opcodeTable : List OpcodeRow :=
  [⟨"INIT", 0x00000000000000000, 0xF0000000000000000⟩,
   ⟨"NEXT", 0x10000000000000000, 0xF0000000000000000⟩,
   ⟨"DBL", 0x20000000000000000, 0xF0000000000000000⟩,
   ⟨"INT", 0x30000000000000000, 0xF0000000000000000⟩,
   ⟨"JUMP", 0x40000000000000000, 0xF0000000000000000⟩,
   ⟨"LJUMP", 0x50000000000000000, 0xF0000000000000000⟩,
   ⟨"SETS", 0x80000000000000000, 0xC0000000000000000⟩,
   ⟨"GETS", 0xC0000000000000000, 0xC0000000000000000⟩,
   ⟨"(illegal)", 0x60000000000000000, 0xE0000000000000000⟩]

end Sys2Proof
end

