-- ==== Sys2Proof/Machine/Ports.lean ====
section
/-! DEFINITION. The ports of the block and what happens at one rising edge of `clk` (30_encoding.md R55 to R57,
70_reset_and_hazards.md R186, R196, R198): what the host drives, what the block shows, acceptance, waiting, the end of a
command, and reset. -/

namespace Sys2Proof.Machine

/-- The input `rst` in this cycle. -/
def State.rst (s : State) : Bool :=
  match s.host with
  | .reset :: _ => true
  | _ => false

/-- The inputs `cmd_valid` and `{cmd_op, cmd_arg}` in this cycle: the command word presented, if one is. -/
def State.presented (s : State) : Option CmdWord :=
  match s.host with
  | .send cw :: _ => some cw
  | .offer cw :: _ => some cw
  | _ => none

/-- The command word accepted in this cycle, if one is: `rst` = 0, `cmd_valid` = 1 and `cmd_ready` = 1
(30_encoding.md R56), and none is in flight ("at most one command is in flight"). -/
def State.accepting (s : State) : Option CmdWord :=
  if s.rst = false ∧ s.cmdReady = true ∧ s.inFlight = none then s.presented else none

/-- The response delivered in this cycle, if one is: in a cycle with `rst` = 1 none is (70_reset_and_hazards.md R186). -/
def State.delivering (s : State) : Option Response := if s.rst then none else s.rsp

/-- The output port `rsp_valid` (30_encoding.md R57). -/
def State.rspValid (s : State) : Bool := s.delivering.isSome

/-- The output port `rsp_data`: while `rsp_valid` = 0 its value is free (93_implementation_defined.md U6; log entry 3). -/
def State.rspData (s : State) : Word :=
  match s.delivering with
  | some r => r.data
  | none => Config.undrivenData s.cycle

/-- The output port `rsp_err`: while `rsp_valid` = 0 its value is free (93_implementation_defined.md U6; log entry 3). -/
def State.rspErr (s : State) : Bool :=
  match s.delivering with
  | some r => r.err
  | none => Config.undrivenErr s.cycle

/-- What the host does from the next cycle on, given what was accepted in this one: a command that is being sent stays
until it is accepted, everything else lasts one cycle (70_reset_and_hazards.md R196). -/
def State.hostNext (s : State) : List HostAction :=
  match s.host with
  | [] => []
  | .send cw :: rest => if s.accepting = none then .send cw :: rest else rest
  | .offer _ :: rest => rest
  | .pause :: rest => rest
  | .reset :: rest => rest

/-- The implementation's timing choices for the command word accepted in this cycle (30_encoding.md R56,
70_reset_and_hazards.md R198; log entry 2). -/
def State.paceFor (s : State) (cw : CmdWord) : Pace :=
  match s.paces with
  | p :: _ => p
  | [] => ⟨Config.latency s.cycle cw, Config.readyEarly s.cycle cw⟩

/-- The rising edge without reset, up to the execution of a command: a command presented is latched if it is accepted
and ignored otherwise; from the cycle after acceptance until the response `cmd_ready` is 0, and with no command in flight
it is 1; a response lasts one cycle (30_encoding.md R56, R57). -/
def State.clock (s : State) : State :=
  match s.accepting with
  | some cw =>
    { s with
      cmdReady := false
      rsp := none
      inFlight := some ⟨cw, (s.paceFor cw).wait, (s.paceFor cw).readyEarly⟩
      host := s.hostNext
      paces := s.paces.tail
      cycle := s.cycle + 1 }
  | none =>
    { s with
      cmdReady := s.inFlight.isNone
      rsp := none
      host := s.hostNext
      cycle := s.cycle + 1 }

/-- A command in flight that is not yet due waits one cycle less (70_reset_and_hazards.md R198). -/
def State.waiting (s : State) (f : InFlight) (n : Nat) : State := { s with inFlight := some { f with wait := n } }

/-- The end of a command: with its response there, nothing is in flight, and `cmd_ready` is 1 in the response cycle or
only in the next, as the implementation likes (30_encoding.md R56). -/
def retire (f : InFlight) : Result → Result
  | .next t => .next { t with inFlight := none, cmdReady := f.readyEarly }
  | .fault r => .fault r
  | .refused r => .refused r

/-- The rising edge in a cycle with `rst` = 1 (70_reset_and_hazards.md R186): the block is in the reset state of R185, a
command in flight is abandoned, no command is accepted. The model's own fields go on. -/
def State.afterReset (s : State) : State :=
  { State.reset with host := s.hostNext, paces := s.paces, cycle := s.cycle + 1 }

/-- The block made ready, with the host sending `cw` at once and the implementation taking the least time for it: so that
the very next clock edge accepts and runs `cw` (log entry 4). Nothing else changes. -/
def State.withCommand (s : State) (cw : CmdWord) : State :=
  { s with
    cmdReady := true
    inFlight := none
    host := .send cw :: s.host
    paces := ⟨0, true⟩ :: s.paces }

end Sys2Proof.Machine
end

