-- ==== Sys2Proof/Machine/Step.lean ====
section
/-! DEFINITION. One step of the machine: one rising edge of `clk` (30_encoding.md R55). -/

namespace Sys2Proof.Machine

/-- One clock cycle. Reset wins (60_exceptions.md R163, 70_reset_and_hazards.md R186). Otherwise a command is accepted if
one can be, and the command in flight, if there is one, waits a cycle less or is executed: its response is then the
response of the next cycle (30_encoding.md R57). A command of latency 1 is accepted and executed at one edge. -/
def step (s : State) : Host.Outcome State Fault Refusal :=
  if s.rst then .next s.afterReset
  else
    match s.clock.inFlight with
    | none => .next s.clock
    | some f =>
      match f.wait with
      | 0 => retire f (exec (decode f.word) s.clock)
      | n + 1 => .next (s.clock.waiting f n)

/-- `s` with the instruction whose bits are the low `nbits` bits of `w` where `step` takes its next instruction from:
presented on the command port of a block that is ready, with latency 1. The table numbers the bits of the one word a
command has; bits above bit 67 do not exist on the port. -/
def State.withFetchWord (s : State) (nbits w : Nat) : State := s.withCommand (BitVec.ofNat 68 (w % 2 ^ nbits))

end Sys2Proof.Machine
end

