-- ==== Sys2Proof/Machine/Assembler.lean ====
section
/-! DEFINITION. The assembler syntax of 30_encoding.md R65 and the pseudo-commands of R66: one command per line, as
`MNEMONIC operand, operand`, `;` starting a comment. What R65 leaves open is fixed in log entry 11. -/

namespace Sys2Proof.Machine

/-- Why a line is no command. -/
inductive AsmError where
  | unknownMnemonic
  | wrongNumberOfOperands
  | badNumber
  | outOfRange
  deriving DecidableEq, Repr

/-- A blank between the parts of a line. -/
def isBlank (c : Char) : Bool := c == ' ' || c == '\t'

/-- A text without the blanks at its two ends. -/
def trimBlanks (cs : List Char) : List Char := ((cs.dropWhile isBlank).reverse.dropWhile isBlank).reverse

/-- The parts of a text between commas. -/
def splitCommas : List Char → List (List Char)
  | [] => [[]]
  | c :: cs =>
    if c == ',' then [] :: splitCommas cs
    else
      match splitCommas cs with
      | [] => [[c]]
      | p :: ps => (c :: p) :: ps

/-- The value of a digit, letters of either case counting from ten. -/
def digitValue (c : Char) : Option Nat :=
  if '0' ≤ c ∧ c ≤ '9' then some (c.toNat - 48)
  else if 'a' ≤ c ∧ c ≤ 'f' then some (c.toNat - 87)
  else if 'A' ≤ c ∧ c ≤ 'F' then some (c.toNat - 55)
  else none

/-- The number a text of digits continues. -/
def digitsFrom (base : Nat) : List Char → Nat → Option Nat
  | [], n => some n
  | c :: cs, n =>
    match digitValue c with
    | some d => if d < base then digitsFrom base cs (n * base + d) else none
    | none => none

/-- A number of at least one digit. -/
def parseDigits (base : Nat) (cs : List Char) : Option Nat := if cs = [] then none else digitsFrom base cs 0

/-- An unsigned operand: decimal, or hexadecimal with `0x` (30_encoding.md R65). -/
def parseNat (cs : List Char) : Option Nat :=
  match cs with
  | '0' :: 'x' :: ds => parseDigits 16 ds
  | _ => parseDigits 10 cs

/-- A signed operand: decimal with an optional leading `-`, or hexadecimal with `0x` (30_encoding.md R65). -/
def parseInt (cs : List Char) : Option Int :=
  match cs with
  | '-' :: ds => (parseDigits 10 ds).map fun n => -(n : Int)
  | _ => (parseNat cs).map fun n => (n : Int)

/-- `seed` or `v`: 0 .. 2^64 − 1 (30_encoding.md R65). -/
def wordOperand (cs : List Char) : Except AsmError Word :=
  match parseNat cs with
  | none => .error .badNumber
  | some n => if n < 2 ^ 64 then .ok (BitVec.ofNat 64 n) else .error .outOfRange

/-- `from` or `to`: −2^31 .. 2^31 − 1 (30_encoding.md R65). -/
def halfOperand (cs : List Char) : Except AsmError Half :=
  match parseInt cs with
  | none => .error .badNumber
  | some n => if -2 ^ 31 ≤ n ∧ n < 2 ^ 31 then .ok (BitVec.ofInt 32 n) else .error .outOfRange

/-- `k`: 0 .. 3 (30_encoding.md R65). -/
def indexOperand (cs : List Char) : Except AsmError (Fin 4) :=
  match parseNat cs with
  | none => .error .badNumber
  | some n => if h : n < 4 then .ok ⟨n, h⟩ else .error .outOfRange

/-- An instruction with one operand. -/
def asm1 {α : Type} (p : List Char → Except AsmError α) (f : α → List Instr) (ops : List (List Char)) :
    Except AsmError (List Instr) :=
  match ops with
  | [a] => (p a).map f
  | _ => .error .wrongNumberOfOperands

/-- An instruction with two operands, the first error winning. -/
def asm2 {α β : Type} (p : List Char → Except AsmError α) (q : List Char → Except AsmError β) (f : α → β → List Instr)
    (ops : List (List Char)) : Except AsmError (List Instr) :=
  match ops with
  | [a, b] =>
    match p a with
    | .error e => .error e
    | .ok x => (q b).map (f x)
  | _ => .error .wrongNumberOfOperands

/-- An instruction without operands. -/
def asm0 (l : List Instr) (ops : List (List Char)) : Except AsmError (List Instr) :=
  if ops = [] then .ok l else .error .wrongNumberOfOperands

/-- Unsigned 64-bit operands, the first error winning. -/
def wordOperands : List (List Char) → Except AsmError (List Word)
  | [] => .ok []
  | a :: as =>
    match wordOperand a, wordOperands as with
    | .error e, _ => .error e
    | .ok _, .error e => .error e
    | .ok w, .ok ws => .ok (w :: ws)

/-- The pseudo-command `LOADS a, b, c, d` (30_encoding.md R66). -/
def asmLoads (ops : List (List Char)) : Except AsmError (List Instr) :=
  match wordOperands ops with
  | .error e => .error e
  | .ok [a, b, c, d] => .ok (Instr.loads a b c d)
  | .ok _ => .error .wrongNumberOfOperands

/-- The commands a mnemonic and its operands stand for (30_encoding.md R65, R66). -/
def asmCommand (m : List Char) (ops : List (List Char)) : Except AsmError (List Instr) :=
  if m = ['I', 'N', 'I', 'T'] then asm1 wordOperand (fun seed => [.init seed]) ops
  else if m = ['N', 'E', 'X', 'T'] then asm0 [.next] ops
  else if m = ['D', 'B', 'L'] then asm0 [.dbl] ops
  else if m = ['I', 'N', 'T'] then asm2 halfOperand halfOperand (fun frm upto => [.int frm upto]) ops
  else if m = ['J', 'U', 'M', 'P'] then asm0 [.jump] ops
  else if m = ['L', 'J', 'U', 'M', 'P'] then asm0 [.ljump] ops
  else if m = ['S', 'E', 'T', 'S'] then asm2 indexOperand wordOperand (fun k v => [.sets k v]) ops
  else if m = ['G', 'E', 'T', 'S'] then asm1 indexOperand (fun k => [.gets k]) ops
  else if m = ['L', 'O', 'A', 'D', 'S'] then asmLoads ops
  else if m = ['R', 'E', 'A', 'D', 'S'] then asm0 Instr.reads ops
  else .error .unknownMnemonic

/-- One line: the comment is dropped; a line with nothing else is no command. -/
def assembleLine (line : List Char) : Except AsmError (List Instr) :=
  let text := trimBlanks (line.takeWhile (· != ';'))
  let m := text.takeWhile fun c => !isBlank c
  let rest := trimBlanks (text.dropWhile fun c => !isBlank c)
  if text = [] then .ok []
  else asmCommand m (if rest = [] then [] else (splitCommas rest).map trimBlanks)

/-- A command sequence, one line after the other, as the command words of the canonical encoding (30_encoding.md R61,
R65). -/
def assemble : List (List Char) → Except AsmError (List CmdWord)
  | [] => .ok []
  | l :: ls =>
    match assembleLine l, assemble ls with
    | .error e, _ => .error e
    | .ok _, .error e => .error e
    | .ok is, .ok ws => .ok (is.map encode ++ ws)

end Sys2Proof.Machine
end

