-- ==== Sys2Proof/Safety.lean ====
section
/-! DEFINITION. The terms claims are stated in: valid generator states, the consistency of the ports, what the host sees
of a run, and the block without a clock. -/

namespace Sys2Proof.Machine

/-- A valid state: reached from `INIT` by any sequence of `NEXT`, `DBL`, `INT`, `JUMP`, `LJUMP` (00_scope.md glossary;
a draw has the state effect of `step()`). -/
inductive GenState.Valid : GenState → Prop
  | init (seed : Word) : GenState.Valid (expandSeed seed)
  | draw {g : GenState} : GenState.Valid g → GenState.Valid g.step
  | jump {g : GenState} : GenState.Valid g → GenState.Valid (jumpWith jumpPoly g)
  | ljump {g : GenState} : GenState.Valid g → GenState.Valid (jumpWith longJumpPoly g)

/-- The consistency of the ports with the command in flight (30_encoding.md R56, R57): while a command is in flight
`cmd_ready` is 0 and no response is shown; when none is and no response is shown, `cmd_ready` is 1. -/
structure State.PortsOk (s : State) : Prop where
  busy : s.inFlight ≠ none → s.cmdReady = false ∧ s.rsp = none
  idle : s.inFlight = none → s.rsp = none → s.cmdReady = true

/-- The host never asserts `rst`. -/
def State.NoReset (s : State) : Prop := HostAction.reset ∉ s.host

/-- The state after `n` clock edges. -/
def State.after : Nat → State → Option State
  | 0, s => some s
  | n + 1, s =>
    match step s with
    | .next t => State.after n t
    | .fault _ => none
    | .refused _ => none

/-- The command words accepted in the first `n` cycles, in order. -/
def State.accepted : Nat → State → List CmdWord
  | 0, _ => []
  | n + 1, s =>
    s.accepting.toList ++
      match step s with
      | .next t => State.accepted n t
      | .fault _ => []
      | .refused _ => []

/-- The responses delivered in the first `n` cycles, in order (00_scope.md R14: bookkeeping, not state). -/
def State.delivered : Nat → State → List Response
  | 0, _ => []
  | n + 1, s =>
    s.delivering.toList ++
      match step s with
      | .next t => State.delivered n t
      | .fault _ => []
      | .refused _ => []

/-- A command as a function from the state words to the state words and the response: the abstraction 30_encoding.md R55
allows. It is read off `exec` at a block in the reset state but for `S`. -/
def effect (i : Instr) (g : GenState) : Option (GenState × Response) :=
  match exec i { State.reset with S := g } with
  | .next t => t.rsp.map fun r => (t.S, r)
  | .fault _ => none
  | .refused _ => none

/-- A command sequence, each command atomic, in order (20_memory.md R47, 70_reset_and_hazards.md R190). -/
def effects : List Instr → GenState → Option (GenState × List Response)
  | [], g => some (g, [])
  | i :: is, g =>
    match effect i g with
    | none => none
    | some (g₁, r) => (effects is g₁).map fun p => (p.1, r :: p.2)

/-- The exclusive or of `step^j(g)` over all `j < n` with `c j` (43_jump.md R135): the polynomial with the coefficients
`c`, applied to `g`. -/
def GenState.combine (c : Nat → Bool) (n : Nat) (g : GenState) : GenState :=
  ((List.range n).filter c).foldr (fun j a => (GenState.step^[j] g).xor a) GenState.zero

end Sys2Proof.Machine
end

