-- ==== Sys2Proof/Certificates/Slice0/Obligations.lean ====
section
/-! DEFINITION. The statements for the provers, in the order of OBLIGATIONS.json: encoding, the commands one family at a
time, what no command does, and the machine (handshake, reset, runs). -/

open Sys2Proof Sys2Proof.Machine

/-! ### The command word -/

/-- Command words written out in 30_encoding.md R65 and 95_test_vectors.md sections 2.6 and 3 decode to their commands. -/
def Obligations.WrittenOutWordsDecode : Prop :=
  decode 0x000000000DEADBEEF = .init 0xDEADBEEF ∧
  decode 0x10000000000000000 = .next ∧
  decode 0x20000000000000000 = .dbl ∧
  decode 0x3000003E800000000 = .int 0 1000 ∧
  decode 0x300000005FFFFFFFB = .int (-5) 5 ∧
  decode 0x40000000000000000 = .jump ∧
  decode 0x50000000000000000 = .ljump ∧
  decode 0xA0000000000000003 = .sets 2 3 ∧
  decode 0xF0000000000000000 = .gets 3 ∧
  decode 0x7FFFFFFFFFFFFFFFF = .illegal 7

/-- 30_encoding.md R62, whole: which command every 68-bit word is, by its opcode, and that every word belongs to exactly
one row of match and mask, its command's. Fields as in R59. -/
def Obligations.DecoderIsCompleteAndUnambiguous : Prop :=
  (∀ cw : CmdWord,
    (cw.toNat / 2 ^ 64 = 0 → decode cw = .init (BitVec.ofNat 64 cw.toNat)) ∧
    (cw.toNat / 2 ^ 64 = 1 → decode cw = .next) ∧
    (cw.toNat / 2 ^ 64 = 2 → decode cw = .dbl) ∧
    (cw.toNat / 2 ^ 64 = 3 →
      decode cw = .int (BitVec.ofNat 32 cw.toNat) (BitVec.ofNat 32 (cw.toNat / 2 ^ 32))) ∧
    (cw.toNat / 2 ^ 64 = 4 → decode cw = .jump) ∧
    (cw.toNat / 2 ^ 64 = 5 → decode cw = .ljump) ∧
    (cw.toNat / 2 ^ 64 = 6 → decode cw = .illegal 6) ∧
    (cw.toNat / 2 ^ 64 = 7 → decode cw = .illegal 7) ∧
    (∀ k : Fin 4, cw.toNat / 2 ^ 64 = 8 + k.val → decode cw = .sets k (BitVec.ofNat 64 cw.toNat)) ∧
    (∀ k : Fin 4, cw.toNat / 2 ^ 64 = 12 + k.val → decode cw = .gets k)) ∧
  (∀ cw : CmdWord, ∃ row ∈ opcodeTable,
    row.mnemonic = (decode cw).mnemonic ∧ opcodeTable.filter (fun r => r.covers cw) = [row])

/-- Decoding an encoded well-formed instruction gives it back, for every instruction and every operand. -/
def Obligations.DecodeOfEncodeIsTheInstruction : Prop :=
  ∀ i : Instr, i.wellFormed = true → decode (encode i) = i

/-- 30_encoding.md R61, whole: with the opcode of a command of format N or KN (`NEXT`, `DBL`, `JUMP`, `LJUMP`, `GETS`) the
argument bits change nothing and make nothing illegal, and are zero in the canonical encoding; in every other format no
bit has to be zero: the word of any opcode but 6 and 7 is a well-formed command, and its bits all come back. -/
def Obligations.IgnoredBitsChangeNothing : Prop :=
  ∀ (op : Opcode) (a b : Word),
    (op ∈ [1, 2, 4, 5, 12, 13, 14, 15] →
      decode (commandWord op a) = decode (commandWord op b) ∧
      (∀ o, decode (commandWord op a) ≠ .illegal o) ∧
      encode (decode (commandWord op a)) = commandWord op 0) ∧
    (op ∈ [0, 3, 8, 9, 10, 11] →
      (∀ o, decode (commandWord op a) ≠ .illegal o) ∧ encode (decode (commandWord op a)) = commandWord op a)

/-- 30_encoding.md R63 and 60_exceptions.md R160: exactly the opcodes 6 and 7, with any argument, raise `IllegalOp`: the
response is (1, 1) and nothing else changes; every other word is a command whose response has `rsp_err` = 0. -/
def Obligations.ExactlyOpcodes6And7RaiseIllegalOp : Prop :=
  ∀ (cw : CmdWord) (s : State),
    ((cw.toNat / 2 ^ 64 = 6 ∨ cw.toNat / 2 ^ 64 = 7) →
      exec (decode cw) s = .next { s with rsp := some ⟨true, 0x0000000000000001⟩ }) ∧
    (cw.toNat / 2 ^ 64 ≠ 6 → cw.toNat / 2 ^ 64 ≠ 7 →
      ∃ g data, exec (decode cw) s = .next { s with S := g, rsp := some ⟨false, data⟩ })

/-- 60_exceptions.md R160, R164: an illegal word always completes with the error response, and nothing is saved. -/
def Obligations.IllegalWordRespondsWithTheCauseCode : Prop :=
  ∀ (op : Opcode) (s : State), exec (.illegal op) s = .next { s with rsp := some ⟨true, 1⟩ }

/-- 30_encoding.md R65, R66: lines of assembler text and the command words they stand for. -/
def Obligations.AssemblerLinesGiveTheirWords : Prop :=
  assemble ["INIT 0xDEADBEEF".toList, "NEXT".toList, "DBL ; a comment".toList, "INT 0, 1000".toList, "INT -5, 5".toList,
      "JUMP".toList, "LJUMP".toList, "SETS 2, 3".toList, "GETS 3".toList] =
    .ok [0x000000000DEADBEEF, 0x10000000000000000, 0x20000000000000000, 0x3000003E800000000, 0x300000005FFFFFFFB,
      0x40000000000000000, 0x50000000000000000, 0xA0000000000000003, 0xF0000000000000000] ∧
  assemble ["LOADS 1, 2, 3, 4".toList, "READS".toList] =
    .ok [0x80000000000000001, 0x90000000000000002, 0xA0000000000000003, 0xB0000000000000004,
      0xC0000000000000000, 0xD0000000000000000, 0xE0000000000000000, 0xF0000000000000000]

/-! ### Primitives -/

/-- 00_scope.md R7: the six primitives, as arithmetic of numbers; no carry is kept. -/
def Obligations.PrimitivesWrapModulo2pow64 : Prop :=
  ∀ a b : Word, ∀ k : Nat, k ≤ 63 →
    (add64 a b).toNat = (a.toNat + b.toNat) % 2 ^ 64 ∧
    (mul64 a b).toNat = a.toNat * b.toNat % 2 ^ 64 ∧
    (xor64 a b).toNat = a.toNat ^^^ b.toNat ∧
    (or64 a b).toNat = a.toNat ||| b.toNat ∧
    (shl64 a k).toNat = a.toNat * 2 ^ k % 2 ^ 64 ∧
    (shr64 a k).toNat = a.toNat / 2 ^ k

/-- 00_scope.md R8: bit `i` becomes bit `(i + k) mod 64`. -/
def Obligations.RotationMovesEveryBit : Prop :=
  ∀ (x : Word) (k i : Nat), 1 ≤ k → k ≤ 63 → i < 64 → (rotl64 x k).getLsbD ((i + k) % 64) = x.getLsbD i

/-- 00_scope.md R11: `msb(x)` is the index of the most significant 1 bit. -/
def Obligations.MsbIsTheHighestSetBit : Prop :=
  ∀ x : Word, x ≠ 0 → msb x ≤ 63 ∧ x.getLsbD (msb x) = true ∧ ∀ i, msb x < i → x.getLsbD i = false

/-! ### INIT -/

/-- 40_seed_expander.md R81: the five steps of the mixing, on numbers, and the rule's example. -/
def Obligations.SmixMixesInFiveSteps : Prop :=
  smix 0x9E3779B97F4A7C15 = 0xE220A8397B1DCDAF ∧
  ∀ a : Word, ∃ z₁ z₂ : Nat,
    z₁ = (a.toNat ^^^ a.toNat / 2 ^ 30) * 0xBF58476D1CE4E5B9 % 2 ^ 64 ∧
    z₂ = (z₁ ^^^ z₁ / 2 ^ 27) * 0x94D049BB133111EB % 2 ^ 64 ∧
    (smix a).toNat = z₂ ^^^ z₂ / 2 ^ 31

/-- 40_seed_expander.md R80, R82, R85: `INIT` completes from every state with response 0, and word `i` is
`smix(seed + (i + 1)·GAMMA)`, whatever the state before; nothing but the four words and the response changes. -/
def Obligations.InitFillsTheFourWords : Prop :=
  (∀ cw : CmdWord, cw.toNat / 2 ^ 64 = 0 → decode cw = .init (BitVec.ofNat 64 cw.toNat)) ∧
  expandSeed 0 = ⟨0xE220A8397B1DCDAF, 0x6E789E6AA1B965F4, 0x06C45D188009454F, 0xF88BB8A8724C81EC⟩ ∧
  ∀ (seed : Word) (s : State),
    exec (.init seed) s = .next { s with
      S := ⟨smix (seed + 0x9E3779B97F4A7C15), smix (seed + 0x3C6EF372FE94F82A),
            smix (seed + 0xDAA66D2C7DDF743F), smix (seed + 0x78DDE6E5FD29F054)⟩
      rsp := some ⟨false, 0⟩ }

/-- 40_seed_expander.md R83: the mixing is a bijection of the 64-bit values and sends exactly 0 to 0. -/
def Obligations.SmixIsABijectionFixingZero : Prop :=
  Function.Bijective smix ∧ smix 0 = 0 ∧ (∀ a, smix a = 0 ↔ a = 0) ∧ ∀ a b, a ≠ b → smix a ≠ smix b

/-- 40_seed_expander.md R84: no seed gives the zero state, at most one word is zero, and the four seeds that make a word
zero, with the rule's example. -/
def Obligations.InitNeverProducesTheZeroState : Prop :=
  expandSeed 0x61C8864680B583EB = ⟨0, 0xE220A8397B1DCDAF, 0x6E789E6AA1B965F4, 0x06C45D188009454F⟩ ∧
  ∀ seed : Word,
    expandSeed seed ≠ GenState.zero ∧
    (∀ i j : Fin 4, (expandSeed seed).get i = 0 → (expandSeed seed).get j = 0 → i = j) ∧
    ((expandSeed seed).get 0 = 0 ↔ seed = 0x61C8864680B583EB) ∧
    ((expandSeed seed).get 1 = 0 ↔ seed = 0xC3910C8D016B07D6) ∧
    ((expandSeed seed).get 2 = 0 ↔ seed = 0x255992D382208BC1) ∧
    ((expandSeed seed).get 3 = 0 ↔ seed = 0x8722191A02D60FAC)

/-- 40_seed_expander.md R86: different seeds give different states, different already in `S[0]`, and different first raw
outputs. -/
def Obligations.DifferentSeedsGiveDifferentStreams : Prop :=
  ∀ a b : Word, a ≠ b →
    (expandSeed a).s0 ≠ (expandSeed b).s0 ∧ expandSeed a ≠ expandSeed b ∧ (expandSeed a).out ≠ (expandSeed b).out

/-! ### NEXT and the Core Transition -/

/-- 41_core_transition.md R90, R93: `NEXT` completes from every state; its response is computed from the state before, and
the four words are the closed form of R93. Rotations here are Lean's own. With the rules' example from `(1, 2, 3, 4)`. -/
def Obligations.NextRespondsThenSteps : Prop :=
  (∀ cw : CmdWord, cw.toNat / 2 ^ 64 = 1 → decode cw = .next) ∧
  GenState.out ⟨1, 2, 3, 4⟩ = 0x2D00 ∧ GenState.step ⟨1, 2, 3, 4⟩ = ⟨0x7, 0x0, 0x40002, 0xC00000000000⟩ ∧
  ∀ s : State,
    exec .next s = .next { s with
      S := ⟨s.S.s0 ^^^ s.S.s1 ^^^ s.S.s3,
            s.S.s0 ^^^ s.S.s1 ^^^ s.S.s2,
            s.S.s0 ^^^ s.S.s2 ^^^ (s.S.s1 <<< 17),
            (s.S.s1 ^^^ s.S.s3).rotateLeft 45⟩
      rsp := some ⟨false, (s.S.s1 * 5).rotateLeft 7 * 9⟩ }

/-- 41_core_transition.md R94: `step()` is linear over GF(2), fixes the zero state, and `unstep` is its inverse, so that
no two states are merged. -/
def Obligations.StepIsLinearAndInvertible : Prop :=
  (∀ a b : GenState, (a.xor b).step = a.step.xor b.step) ∧
  GenState.zero.step = GenState.zero ∧
  (∀ g : GenState, g.step.unstep = g) ∧
  (∀ g : GenState, g.unstep.step = g) ∧
  Function.Bijective GenState.step

/-- 41_core_transition.md R95: on the zero state the output is 0 and nothing changes, it is the only fixed point, and no
other state steps to it. -/
def Obligations.ZeroIsTheOnlyFixedPoint : Prop :=
  GenState.zero.out = 0 ∧ GenState.zero.step = GenState.zero ∧
  (∀ g : GenState, g.step = g → g = GenState.zero) ∧
  (∀ g : GenState, g ≠ GenState.zero → g.step ≠ GenState.zero)

/-- 41_core_transition.md R96: the output depends on `S[1]` alone, reveals it, is 0 exactly when it is 0, and two
consecutive outputs are equal exactly when `S[0] xor S[2]` is 0. -/
def Obligations.OutputRevealsTheSecondWord : Prop :=
  (∀ g h : GenState, g.out = h.out ↔ g.s1 = h.s1) ∧
  (∀ g : GenState, unout g.out = g.s1) ∧
  (∀ v : Word, ∃ g : GenState, g.out = v) ∧
  (∀ g : GenState, g.out = 0 ↔ g.s1 = 0) ∧
  (∀ g : GenState, g.step.out = g.out ↔ xor64 g.s0 g.s2 = 0)

/-- 41_core_transition.md R97, first half: the exclusive or of `step^j(g)` over the exponents `j` of the polynomial is the
zero state, for every state; it has 115 terms and constant term 1. -/
def Obligations.StepSatisfiesItsPolynomial : Prop :=
  (∀ g : GenState, (GenState.combine stepPoly.coeff 256 g).xor (GenState.step^[256] g) = GenState.zero) ∧
  ((List.range 256).filter stepPoly.coeff).length + 1 = 115 ∧ stepPoly.coeff 0 = true

/-- 41_core_transition.md R97, second half, as 43_jump.md R136 uses it: no polynomial of degree below 256 annihilates
every state, so two different tables never act alike. -/
def Obligations.DifferentTablesActDifferently : Prop :=
  ∀ P Q : JumpTable, (∀ g : GenState, GenState.combine P.coeff 256 g = GenState.combine Q.coeff 256 g) → P = Q

/-! ### DBL -/

/-- 42_formatters.md R105, R107: `DBL` completes from every state, leaves the state `NEXT` leaves, and responds `fmt_dbl` of
the drawn value. Its pattern, as a number: the exponent `959 + p` above the 52 bits after the leading one; and its value: `x`
truncated to its 53 leading bits, divided by 2^64. Here `p`, the place of the leading one, is Lean's own `Nat.log2`. -/
def Obligations.DblScalesTheDrawnValue : Prop :=
  (∀ cw : CmdWord, cw.toNat / 2 ^ 64 = 2 → decode cw = .dbl) ∧
  (∀ s : State, exec .dbl s = .next { s with S := s.S.step, rsp := some ⟨false, fmtDbl s.S.out⟩ }) ∧
  fmtDbl 0 = 0x0000000000000000 ∧
  (∀ x : Word, x ≠ 0 → (fmtDbl x).toNat =
    (959 + Nat.log2 x.toNat) * 2 ^ 52 + x.toNat * 2 ^ (63 - Nat.log2 x.toNat) / 2 ^ 11 % 2 ^ 52) ∧
  (∀ x : Word, dblValue (fmtDbl x) =
    some (((x.toNat / 2 ^ (Nat.log2 x.toNat - 52) * 2 ^ (Nat.log2 x.toNat - 52) : Nat) : ℚ) / 2 ^ 64))

/-- 42_formatters.md R108, (a) to (g). -/
def Obligations.DoublesLieInTheUnitInterval : Prop :=
  (∀ x : Word, ∃ v : ℚ, dblValue (fmtDbl x) = some v ∧
    0 ≤ v ∧ v ≤ 1 - 1 / 2 ^ 53 ∧ v ≠ 1 ∧
    (v = 0 ↔ x = 0) ∧ (x = 0 → fmtDbl x = 0) ∧
    v ≤ (x.toNat : ℚ) / 2 ^ 64 ∧
    (x ≠ 0 → (x.toNat : ℚ) / 2 ^ 64 - v < 2 ^ ((msb x : Int) - 52) / 2 ^ 64 ∧
      (2 : ℚ) ^ ((msb x : Int) - 52) / 2 ^ 64 ≤ 1 / 2 ^ 53) ∧
    dblSign (fmtDbl x) = false ∧
    (x ≠ 0 → 959 ≤ dblExponent (fmtDbl x) ∧ dblExponent (fmtDbl x) ≤ 1022) ∧
    (fmtDbl x = 0x3FEFFFFFFFFFFFFF ↔ 2 ^ 64 - 2048 ≤ x.toNat)) ∧
  (∀ x y : Word, x ≤ y → fmtDbl x ≤ fmtDbl y ∧
    ∀ v w, dblValue (fmtDbl x) = some v → dblValue (fmtDbl y) = some w → v ≤ w)

/-! ### INT -/

/-- 42_formatters.md R110, R111: `INT` completes from every state; with equal bounds it responds `from` and draws
nothing, otherwise it makes one draw and responds `from + (v mod |to − from|)` wrapped to 32 signed bits, sign-extended. -/
def Obligations.IntRespondsFromPlusRemainder : Prop :=
  (∀ cw : CmdWord, cw.toNat / 2 ^ 64 = 3 →
    decode cw = .int (BitVec.ofNat 32 cw.toNat) (BitVec.ofNat 32 (cw.toNat / 2 ^ 32))) ∧
  ∀ (frm upto : Half) (s : State),
    exec (.int frm upto) s =
      if frm = upto then .next { s with rsp := some ⟨false, frm.signExtend 64⟩ }
      else .next { s with
        S := s.S.step
        rsp := some ⟨false, BitVec.ofInt 64
          (Int.bmod (frm.toInt + ((s.S.out.toNat % (upto.toInt - frm.toInt).natAbs : Nat) : Int)) (2 ^ 32))⟩ }

/-- 42_formatters.md R112: equal bounds. -/
def Obligations.IntWithEqualBoundsDrawsNothing : Prop :=
  ∀ (x : Half) (s : State), exec (.int x x) s = .next { s with rsp := some ⟨false, BitVec.ofInt 64 x.toInt⟩ }

/-- 42_formatters.md R113: an ascending range gives `from + r`, inside the half-open range; with width 1 the result is
`from`, and a raw value is still drawn. -/
def Obligations.IntAscendingStaysInTheRange : Prop :=
  ∀ (frm upto : Half) (v : Word), frm.toInt < upto.toInt →
    (fmtInt frm upto v).toInt = frm.toInt + ((v.toNat % (upto.toInt - frm.toInt).toNat : Nat) : Int) ∧
    frm.toInt ≤ (fmtInt frm upto v).toInt ∧ (fmtInt frm upto v).toInt < upto.toInt ∧
    (upto.toInt = frm.toInt + 1 → ∀ s : State,
      exec (.int frm upto) s = .next { s with S := s.S.step, rsp := some ⟨false, sext64 frm⟩ })

/-- 42_formatters.md R114, its formula: descending operands give `from + r`, continued past 2^31 − 1 at −2^31; a result
that is not wrapped is at or above `from`. (R114's remark that no result but `from` lies between the operands is false of
its own formula where the sum wraps far: see R115 and NOTES.md; it is not stated.) -/
def Obligations.IntDescendingGoesUpAndWraps : Prop :=
  ∀ (frm upto : Half) (v : Word), upto.toInt < frm.toInt →
    ∃ r : Nat, r = v.toNat % (frm.toInt - upto.toInt).toNat ∧
      (frm.toInt + r ≤ 2 ^ 31 - 1 →
        (fmtInt frm upto v).toInt = frm.toInt + r ∧ frm.toInt ≤ (fmtInt frm upto v).toInt) ∧
      (2 ^ 31 - 1 < frm.toInt + r → (fmtInt frm upto v).toInt = frm.toInt + r - 2 ^ 32)

/-- 42_formatters.md R115: the largest width, by which operands it is reached, and the results there. -/
def Obligations.IntExtremeWidths : Prop :=
  (∀ frm upto : Half, (intWidth frm upto).toNat ≤ 2 ^ 32 - 1 ∧
    ((intWidth frm upto).toNat = 2 ^ 32 - 1 ↔
      (frm.toInt = -2 ^ 31 ∧ upto.toInt = 2 ^ 31 - 1) ∨ (frm.toInt = 2 ^ 31 - 1 ∧ upto.toInt = -2 ^ 31))) ∧
  (∀ n : Int, (∃ v : Word, (fmtInt 0x80000000 0x7FFFFFFF v).toInt = n) ↔ -2 ^ 31 ≤ n ∧ n ≤ 2 ^ 31 - 2) ∧
  (∀ v : Word,
    (fmtInt 0x80000000 0x7FFFFFFF v).toInt = -2 ^ 31 + ((v.toNat % (2 ^ 32 - 1) : Nat) : Int) ∧
    (v.toNat % (2 ^ 32 - 1) = 0 → (fmtInt 0x7FFFFFFF 0x80000000 v).toInt = 2 ^ 31 - 1) ∧
    (1 ≤ v.toNat % (2 ^ 32 - 1) →
      (fmtInt 0x7FFFFFFF 0x80000000 v).toInt = -2 ^ 31 + ((v.toNat % (2 ^ 32 - 1) : Nat) : Int) - 1))

/-- 42_formatters.md R116: how many raw values give each remainder. -/
def Obligations.IntModuloBias : Prop :=
  ∀ (frm upto : Half) (r : Nat), frm ≠ upto → r < (upto.toInt - frm.toInt).natAbs →
    Fintype.card { v : Word // (umod v (zext64 (intWidth frm upto))).toNat = r } =
      2 ^ 64 / (upto.toInt - frm.toInt).natAbs +
        if r < 2 ^ 64 % (upto.toInt - frm.toInt).natAbs then 1 else 0

/-! ### JUMP and LJUMP -/

/-- 43_jump.md R134, R135: what `jump_with` computes, for every table and state: the exclusive or of `step^j(g)` over the
set bits `j` of the table. -/
def Obligations.JumpWithIsAPolynomialInStep : Prop :=
  ∀ (P : JumpTable) (g : GenState), jumpWith P g = GenState.combine P.coeff 256 g

/-- 43_jump.md R130 to R133, R135: `JUMP` and `LJUMP` complete from every state with response 0 and the state their tables
give; nothing else changes. -/
def Obligations.JumpsCompleteByTheirTables : Prop :=
  ∀ s : State,
    exec .jump s = .next { s with
      S := GenState.combine (JumpTable.coeff
        ⟨0x180EC6D33CFD0ABA, 0xD5A61266F0C9392C, 0xA9582618E03FC9AA, 0x39ABDC4529B1661C⟩) 256 s.S
      rsp := some ⟨false, 0⟩ } ∧
    exec .ljump s = .next { s with
      S := GenState.combine (JumpTable.coeff
        ⟨0x76E15D3EFEFDCBBF, 0xC5004E441C522FB3, 0x77710069854EE241, 0x39109BB02ACBE635⟩) 256 s.S
      rsp := some ⟨false, 0⟩ }

/-- 43_jump.md R130, R137 (a): `JUMP` is 2^128 steps, with response 0. -/
def Obligations.JumpAdvances2pow128Steps : Prop :=
  (∀ cw : CmdWord, cw.toNat / 2 ^ 64 = 4 → decode cw = .jump) ∧
  ∀ s : State, exec .jump s = .next { s with S := GenState.step^[2 ^ 128] s.S, rsp := some ⟨false, 0⟩ }

/-- 43_jump.md R131, R137 (a): `LJUMP` is 2^192 steps, with response 0. -/
def Obligations.LongJumpAdvances2pow192Steps : Prop :=
  (∀ cw : CmdWord, cw.toNat / 2 ^ 64 = 5 → decode cw = .ljump) ∧
  ∀ s : State, exec .ljump s = .next { s with S := GenState.step^[2 ^ 192] s.S, rsp := some ⟨false, 0⟩ }

/-- 43_jump.md R136: each table is the only one that meets the contract. -/
def Obligations.JumpTablesAreTheOnlyOnes : Prop :=
  (∀ P : JumpTable, (∀ g : GenState, jumpWith P g = GenState.step^[2 ^ 128] g) ↔ P = jumpPoly) ∧
  (∀ P : JumpTable, (∀ g : GenState, jumpWith P g = GenState.step^[2 ^ 192] g) ↔ P = longJumpPoly)

/-- 43_jump.md R137 (a), (b): both jumps are linear bijections, fix the zero state and never produce it from another. -/
def Obligations.JumpsAreLinearBijections : Prop :=
  ∀ P ∈ [jumpPoly, longJumpPoly],
    (∀ a b : GenState, jumpWith P (a.xor b) = (jumpWith P a).xor (jumpWith P b)) ∧
    Function.Bijective (jumpWith P) ∧
    jumpWith P GenState.zero = GenState.zero ∧
    ∀ g : GenState, g ≠ GenState.zero → jumpWith P g ≠ GenState.zero

/-- 43_jump.md R137 (c): a jump, by any table, commutes with `step()` and with every other jump. -/
def Obligations.JumpsCommute : Prop :=
  ∀ (P Q : JumpTable) (g : GenState),
    jumpWith P g.step = (jumpWith P g).step ∧ jumpWith P (jumpWith Q g) = jumpWith Q (jumpWith P g)

/-- 43_jump.md R137 (d): 2^64 consecutive `JUMP` commands have the effect of one `LJUMP`. -/
def Obligations.LongJumpIs2pow64Jumps : Prop :=
  ∀ g : GenState, (jumpWith jumpPoly)^[2 ^ 64] g = jumpWith longJumpPoly g

/-! ### SETS and GETS -/

/-- 44_state_access.md R151: `SETS k, v` completes for every word and value: `S[k]` is `v`, the three others keep their
values, the response is 0. -/
def Obligations.SetsWritesOneWord : Prop :=
  (∀ (cw : CmdWord) (k : Fin 4), cw.toNat / 2 ^ 64 = 8 + k.val → decode cw = .sets k (BitVec.ofNat 64 cw.toNat)) ∧
  ∀ (k : Fin 4) (v : Word) (s : State), ∃ g : GenState,
    exec (.sets k v) s = .next { s with S := g, rsp := some ⟨false, 0⟩ } ∧
    g.get k = v ∧ ∀ j, j ≠ k → g.get j = s.S.get j

/-- 44_state_access.md R150: `GETS k` completes for every word: the response is `S[k]`, and nothing else changes. -/
def Obligations.GetsRespondsOneWord : Prop :=
  (∀ (cw : CmdWord) (k : Fin 4), cw.toNat / 2 ^ 64 = 12 + k.val → decode cw = .gets k) ∧
  ∀ s : State,
    exec (.gets 0) s = .next { s with rsp := some ⟨false, s.S.s0⟩ } ∧
    exec (.gets 1) s = .next { s with rsp := some ⟨false, s.S.s1⟩ } ∧
    exec (.gets 2) s = .next { s with rsp := some ⟨false, s.S.s2⟩ } ∧
    exec (.gets 3) s = .next { s with rsp := some ⟨false, s.S.s3⟩ }

/-- 44_state_access.md R152: `LOADS` replaces the state and `READS` returns it and leaves it alone, and the order of the
four commands within each does not matter to the state. -/
def Obligations.LoadsThenReadsTransfersTheState : Prop :=
  ∀ (a b c d : Word) (g : GenState),
    effects (Instr.loads a b c d) g = some (⟨a, b, c, d⟩, [⟨false, 0⟩, ⟨false, 0⟩, ⟨false, 0⟩, ⟨false, 0⟩]) ∧
    effects Instr.reads g = some (g, [⟨false, g.s0⟩, ⟨false, g.s1⟩, ⟨false, g.s2⟩, ⟨false, g.s3⟩]) ∧
    (∀ l, l.Perm (Instr.loads a b c d) → (effects l g).map Prod.fst = some ⟨a, b, c, d⟩) ∧
    (∀ l, l.Perm Instr.reads → (effects l g).map Prod.fst = some g)

/-! ### What every command does, and what none does -/

/-- 00_scope.md R15, 30_encoding.md R57: every command completes from every state, with one response, whose error flag is
set exactly for an illegal word. -/
def Obligations.EveryCommandCompletesWithAResponse : Prop :=
  ∀ (i : Instr) (s : State), ∃ t r, exec i s = .next t ∧ t.rsp = some r ∧ (r.err = true ↔ ∃ op, i = .illegal op)

/-- 10_state.md R22, the writes, and the frame of every command: nothing but `S` and the response changes, and of `S` only
what the table marks "w". -/
def Obligations.CommandsWriteOnlyTheirWords : Prop :=
  ∀ (i : Instr) (s t : State), exec i s = .next t →
    t.cmdReady = s.cmdReady ∧ t.inFlight = s.inFlight ∧ t.host = s.host ∧ t.paces = s.paces ∧ t.cycle = s.cycle ∧
    match i with
    | .init _ | .jump | .ljump => True
    | .next | .dbl => t.S = s.S.step
    | .int frm upto => if frm = upto then t.S = s.S else t.S = s.S.step
    | .sets k _ => ∀ j, j ≠ k → t.S.get j = s.S.get j
    | .gets _ | .illegal _ => t.S = s.S

/-- 10_state.md R22, the reads, and 70_reset_and_hazards.md R195: a command's effect on `S` and its response depend on `S`
alone (not on the ports, the timing, or what the host does next), and the response only on the words the table marks "r";
the response of a draw, on `S[1]` (R96). -/
def Obligations.CommandsReadOnlyTheirWords : Prop :=
  ∀ (i : Instr) (s s' t t' : State), exec i s = .next t → exec i s' = .next t' →
    (s.S = s'.S → t.S = t'.S ∧ t.rsp = t'.rsp) ∧
    match i with
    | .init _ => t.S = t'.S ∧ t.rsp = t'.rsp
    | .next | .dbl => s.S.s1 = s'.S.s1 → t.rsp = t'.rsp
    | .int frm upto => (frm = upto ∨ s.S.s1 = s'.S.s1) → t.rsp = t'.rsp
    | .gets k => s.S.get k = s'.S.get k → t.rsp = t'.rsp
    | .sets k _ => t.S.get k = t'.S.get k ∧ t.rsp = t'.rsp
    | .jump | .ljump | .illegal _ => t.rsp = t'.rsp

/-- 60_exceptions.md R165: after an error response the block goes on as if the illegal command had not been sent. -/
def Obligations.IllegalCommandDisturbsNothing : Prop :=
  ∀ (before after : List Instr) (op : Opcode) (g : GenState),
    (effects (before ++ .illegal op :: after) g).map Prod.fst = (effects (before ++ after) g).map Prod.fst

/-- 70_reset_and_hazards.md R187, 41_core_transition.md R95: on the zero state every draw gives 0, `+0.0` or `from`, a jump
leaves it zero, and so on for ever: no sequence without `INIT` and `SETS` leaves it. -/
def Obligations.ZeroStateStaysZeroForEver : Prop :=
  (∀ frm upto : Half,
    effect .next GenState.zero = some (GenState.zero, ⟨false, 0⟩) ∧
    effect .dbl GenState.zero = some (GenState.zero, ⟨false, 0⟩) ∧
    effect (.int frm upto) GenState.zero = some (GenState.zero, ⟨false, sext64 frm⟩) ∧
    effect .jump GenState.zero = some (GenState.zero, ⟨false, 0⟩) ∧
    effect .ljump GenState.zero = some (GenState.zero, ⟨false, 0⟩)) ∧
  ∀ is : List Instr, (∀ i ∈ is, (∀ seed, i ≠ .init seed) ∧ ∀ k v, i ≠ .sets k v) →
    (effects is GenState.zero).map Prod.fst = some GenState.zero

/-- 70_reset_and_hazards.md R193: `NEXT`, `DBL` and `INT` with different bounds move the stream by one position, `INT` with
equal bounds, `GETS` and an illegal command by none. -/
def Obligations.DrawsMoveTheStreamByOne : Prop :=
  ∀ (is : List Instr) (g : GenState),
    (∀ i ∈ is, i = .next ∨ i = .dbl ∨ (∃ a b, i = .int a b) ∨ (∃ k, i = .gets k) ∨ ∃ op, i = .illegal op) →
    (effects is g).map Prod.fst =
      some (GenState.step^[is.countP fun i =>
        match i with
        | .next | .dbl => true
        | .int a b => a != b
        | .init _ | .jump | .ljump | .sets _ _ | .gets _ | .illegal _ => false] g)

/-- 10_state.md R29, 00_scope.md glossary: a valid state is never the zero state. -/
def Obligations.ValidStatesAreNeverZero : Prop :=
  ∀ g : GenState, g.Valid → g ≠ GenState.zero

/-! ### The machine -/

/-- 00_scope.md R13, 30_encoding.md R56: a step runs the command it decodes. When a command is accepted with latency 1, or
the command in flight is due, the step is `exec` of the decoded word at the state the clock edge leaves (same four words, no
response, host one action on), with the command then retired. So too for a word placed by `withFetchWord`
(that clause is the model's own, log entry 4, and so is the moment at which the effect happens, log entry 1). -/
def Obligations.StepRunsTheDecodedCommand : Prop :=
  (∀ (s : State) (cw : CmdWord), s.accepting = some cw → (s.paceFor cw).wait = 0 →
    step s = retire ⟨cw, 0, (s.paceFor cw).readyEarly⟩ (exec (decode cw) s.clock) ∧ s.clock.S = s.S ∧
      s.clock.host = s.hostNext ∧ s.clock.rsp = none) ∧
  (∀ (s : State) (f : InFlight), s.rst = false → s.inFlight = some f → f.wait = 0 →
    step s = retire f (exec (decode f.word) s.clock) ∧ s.clock.S = s.S ∧
      s.clock.host = s.hostNext ∧ s.clock.rsp = none) ∧
  (∀ (s : State) (n w : Nat), ∃ t,
    (s.withFetchWord n w).clock = t ∧
    step (s.withFetchWord n w) =
      retire ⟨BitVec.ofNat 68 (w % 2 ^ n), 0, true⟩ (exec (decode (BitVec.ofNat 68 (w % 2 ^ n))) t) ∧
    t.S = s.S ∧ t.host = s.host ∧ t.paces = s.paces ∧ t.rsp = none)

/-- 00_scope.md R16: no stuck state, no hang: every step of every state answers a next state. -/
def Obligations.EveryStepAnswersANextState : Prop :=
  ∀ s : State, ∃ t, step s = .next t

/-- 70_reset_and_hazards.md R185. -/
def Obligations.ResetState : Prop :=
  State.reset.S.s0 = 0x0000000000000000 ∧ State.reset.S.s1 = 0x0000000000000000 ∧
  State.reset.S.s2 = 0x0000000000000000 ∧ State.reset.S.s3 = 0x0000000000000000 ∧
  State.reset.inFlight = none ∧ State.reset.cmdReady = true ∧ State.reset.rspValid = false

/-- 70_reset_and_hazards.md R186: in a cycle with `rst` = 1 no command is accepted and no response delivered, and the next
state is the reset state whatever was in flight; without reset, a command in flight either waits, with no response, or ends
with a response. (That the four words stay as they are while it waits is the model's choice, log entry 1.) -/
def Obligations.ResetWins : Prop :=
  (∀ s : State, s.rst = true →
    s.accepting = none ∧ s.rspValid = false ∧
    ∃ t, step s = .next t ∧ t.S = State.reset.S ∧ t.cmdReady = true ∧ t.rsp = none ∧ t.inFlight = none) ∧
  (∀ (s t : State) (f : InFlight), s.rst = false → s.inFlight = some f → step s = .next t →
    (f.wait = 0 ∧ t.inFlight = none ∧ t.rsp ≠ none) ∨
    (∃ n, f.wait = n + 1 ∧ t.inFlight = some { f with wait := n } ∧ t.S = s.S ∧ t.rsp = none))

/-- The ports are consistent with the command in flight at reset: R185 gives every value the invariant reads. -/
def Obligations.ResetMeetsPortConsistency : Prop :=
  State.reset.PortsOk

/-- 30_encoding.md R56, R57: every step, from every consistent state and whatever the host does, keeps the ports consistent
with the command in flight. -/
def Obligations.StepKeepsPortConsistency : Prop :=
  ∀ s t : State, s.PortsOk → step s = .next t → t.PortsOk

/-- 30_encoding.md R56: without `rst`, a command word is accepted exactly when it is presented and `cmd_ready` is 1, whether the
host sends or only offers it, so that nothing is accepted while `cmd_ready` is 0; an accepted word is the one in flight, if
it is not answered at once; from the cycle after acceptance `cmd_ready` is 0 until the response, and it is 1 again no later
than the cycle after the response. The last two clauses, that a word the host sends stays until it is accepted and is then
gone, and that an offer lasts one cycle, are the model's own host, log entry 4. -/
def Obligations.HandshakeReadyWindow : Prop :=
  ∀ s t : State, s.PortsOk → s.rst = false → step s = .next t →
    (∀ cw, s.accepting = some cw ↔
      s.cmdReady = true ∧ ∃ rest, s.host = .send cw :: rest ∨ s.host = .offer cw :: rest) ∧
    (s.cmdReady = false → s.accepting = none) ∧
    (∀ cw, s.accepting = some cw → t.rsp = none → ∃ f, t.inFlight = some f ∧ f.word = cw) ∧
    (t.inFlight ≠ none → t.cmdReady = false) ∧
    (s.rsp ≠ none → s.accepting = none → t.cmdReady = true) ∧
    (∀ cw rest, s.host = .send cw :: rest →
      (s.accepting = none → t.host = .send cw :: rest) ∧ (s.accepting = some cw → t.host = rest)) ∧
    (∀ cw rest, s.host = .offer cw :: rest → t.host = rest)

/-- 30_encoding.md R56: while `cmd_ready` is 0, or a command is in flight, what the host presents has no effect: with any two
actions that are not reset the step is the same but for the host's own list. -/
def Obligations.BusyBlockIgnoresTheCommandPort : Prop :=
  ∀ (s t : State) (h h' : List HostAction),
    (s.cmdReady = false ∨ s.inFlight ≠ none) →
    State.rst { s with host := h } = false → State.rst { s with host := h' } = false →
    step { s with host := h } = .next t →
    ∃ t', step { s with host := h' } = .next t' ∧ { t' with host := t.host } = t

/-- 70_reset_and_hazards.md R190: the four words change only under reset, or at the edge that delivers the response of a
command, and then exactly as that command says. (That they change at that edge and not earlier is the model's choice, log
entry 1; what R190 says is that no port could tell.) -/
def Obligations.StateChangesOnlyWithAResponse : Prop :=
  ∀ s t : State, step s = .next t → t.S ≠ s.S →
    s.rst = true ∨
    ∃ cw r, (s.accepting = some cw ∨ ∃ f, s.inFlight = some f ∧ f.word = cw) ∧
      effect (decode cw) s.S = some (t.S, r) ∧ t.rsp = some r ∧ t.inFlight = none

/-- 30_encoding.md R57, 70_reset_and_hazards.md R198: without reset, a command accepted with latency `LAT` has its response
exactly `LAT` cycles later, with the effect of the command, and the output ports `rsp_data` and `rsp_err` show that response;
in every cycle before, no response is shown, `cmd_ready` is 0 and the four words are as they were (that they change at the end and not before is the model's choice, log entry 1). This
holds for every value the free choice of latency takes. -/
def Obligations.AcceptedCommandIsAnsweredInTime : Prop :=
  ∀ (s : State) (cw : CmdWord), s.accepting = some cw → s.NoReset →
    (∃ t r, s.after ((s.paceFor cw).wait + 1) = some t ∧ t.rsp = some r ∧ t.rspValid = true ∧
      t.rspData = r.data ∧ t.rspErr = r.err ∧ t.inFlight = none ∧
      effect (decode cw) s.S = some (t.S, r)) ∧
    ∀ j, 1 ≤ j → j ≤ (s.paceFor cw).wait →
      ∃ u, s.after j = some u ∧ u.rspValid = false ∧ u.cmdReady = false ∧ u.S = s.S

/-- 30_encoding.md R55, 20_memory.md R47: the abstraction to a function from (state, command word) to (state, response) is
exact. From any idle state, for any host without reset and any timing of the implementation, the responses delivered over
any number of cycles are those of the accepted commands run atomically, in order, less the one that is being delivered or
in flight; and the four words are those of the atomic run. (That while a command is in flight they are still those before it
is the model's choice, log entry 1.) -/
def Obligations.HandshakeAbstractionIsExact : Prop :=
  ∀ (s t : State) (n : Nat), s.inFlight = none → s.rsp = none → s.NoReset → s.after n = some t →
    ∃ g rs, effects ((s.accepted n).map decode) s.S = some (g, rs) ∧
      (t.inFlight = none → t.S = g ∧ rs = s.delivered n ++ t.rsp.toList) ∧
      (∀ f, t.inFlight = some f → ∃ r, effect (decode f.word) t.S = some (g, r) ∧ rs = s.delivered n ++ [r])

/-- 70_reset_and_hazards.md R195: the response number `m` of a run is a function of the commands accepted up to it and the
four words at the start. In two runs from idle states with the same four words (the reset state, for one) in which the first
`m + 1` accepted words are the same commands, that response is the same, whatever the gaps, the latencies, the ignored bits
and the lengths of the runs. -/
def Obligations.TimingDoesNotMatter : Prop :=
  ∀ (s s' : State) (n n' m : Nat) (r r' : Response),
    s.S = s'.S → s.inFlight = none → s'.inFlight = none → s.rsp = none → s'.rsp = none → s.NoReset → s'.NoReset →
    ((s.accepted n).map decode).take (m + 1) = ((s'.accepted n').map decode).take (m + 1) →
    (s.delivered n)[m]? = some r → (s'.delivered n')[m]? = some r' →
    r = r'

/-- 10_state.md R29: only reset, or a `SETS` of zero, takes the block from another state to the zero state: no `INIT`, draw,
jump, read, illegal command, waiting or idle cycle does. -/
def Obligations.OnlyResetAndSetsReachTheZeroState : Prop :=
  ∀ s t : State, s.S ≠ GenState.zero → step s = .next t → t.S = GenState.zero →
    s.rst = true ∨ ∃ f k, s.clock.inFlight = some f ∧ f.wait = 0 ∧ decode f.word = .sets k 0
end

