-- ==== Sys2Proof/Laws/State.lean ====
section
/-! SUPPORT. The state's small lemmas: what each update leaves in each field. -/

namespace Sys2Proof.Machine

section Reset

@[simp] theorem reset_S : State.reset.S = GenState.zero := rfl
@[simp] theorem reset_cmdReady : State.reset.cmdReady = true := rfl
@[simp] theorem reset_rsp : State.reset.rsp = none := rfl
@[simp] theorem reset_inFlight : State.reset.inFlight = none := rfl
@[simp] theorem reset_host : State.reset.host = [] := rfl
@[simp] theorem reset_paces : State.reset.paces = [] := rfl
@[simp] theorem reset_cycle : State.reset.cycle = 0 := rfl

end Reset

section Drawn

variable (s : State)

@[simp] theorem drawn_S : (drawn s).S = s.S.step := rfl
@[simp] theorem drawn_cmdReady : (drawn s).cmdReady = s.cmdReady := rfl
@[simp] theorem drawn_rsp : (drawn s).rsp = s.rsp := rfl
@[simp] theorem drawn_inFlight : (drawn s).inFlight = s.inFlight := rfl
@[simp] theorem drawn_host : (drawn s).host = s.host := rfl
@[simp] theorem drawn_paces : (drawn s).paces = s.paces := rfl
@[simp] theorem drawn_cycle : (drawn s).cycle = s.cycle := rfl

end Drawn

section AfterReset

variable (s : State)

@[simp] theorem afterReset_S : s.afterReset.S = GenState.zero := rfl
@[simp] theorem afterReset_cmdReady : s.afterReset.cmdReady = true := rfl
@[simp] theorem afterReset_rsp : s.afterReset.rsp = none := rfl
@[simp] theorem afterReset_inFlight : s.afterReset.inFlight = none := rfl
@[simp] theorem afterReset_host : s.afterReset.host = s.hostNext := rfl
@[simp] theorem afterReset_paces : s.afterReset.paces = s.paces := rfl
@[simp] theorem afterReset_cycle : s.afterReset.cycle = s.cycle + 1 := rfl

end AfterReset

section Waiting

variable (s : State) (f : InFlight) (n : Nat)

@[simp] theorem waiting_S : (s.waiting f n).S = s.S := rfl
@[simp] theorem waiting_cmdReady : (s.waiting f n).cmdReady = s.cmdReady := rfl
@[simp] theorem waiting_rsp : (s.waiting f n).rsp = s.rsp := rfl
@[simp] theorem waiting_inFlight : (s.waiting f n).inFlight = some { f with wait := n } := rfl
@[simp] theorem waiting_host : (s.waiting f n).host = s.host := rfl
@[simp] theorem waiting_paces : (s.waiting f n).paces = s.paces := rfl
@[simp] theorem waiting_cycle : (s.waiting f n).cycle = s.cycle := rfl

end Waiting

section WithCommand

variable (s : State) (cw : CmdWord)

@[simp] theorem withCommand_S : (s.withCommand cw).S = s.S := rfl
@[simp] theorem withCommand_cmdReady : (s.withCommand cw).cmdReady = true := rfl
@[simp] theorem withCommand_rsp : (s.withCommand cw).rsp = s.rsp := rfl
@[simp] theorem withCommand_inFlight : (s.withCommand cw).inFlight = none := rfl
@[simp] theorem withCommand_host : (s.withCommand cw).host = .send cw :: s.host := rfl
@[simp] theorem withCommand_paces : (s.withCommand cw).paces = ⟨0, true⟩ :: s.paces := rfl
@[simp] theorem withCommand_cycle : (s.withCommand cw).cycle = s.cycle := rfl
@[simp] theorem withCommand_rst : (s.withCommand cw).rst = false := rfl
@[simp] theorem withCommand_presented : (s.withCommand cw).presented = some cw := rfl
@[simp] theorem withCommand_accepting : (s.withCommand cw).accepting = some cw := rfl
@[simp] theorem withCommand_paceFor (cw' : CmdWord) : (s.withCommand cw).paceFor cw' = ⟨0, true⟩ := rfl

end WithCommand

section Words

variable (g : GenState) (v : Word)

@[simp] theorem get_set_same (k : Fin 4) : (g.set k v).get k = v := by
  match k with
  | 0 | 1 | 2 | 3 => rfl

theorem get_set_other {j k : Fin 4} (h : j ≠ k) : (g.set k v).get j = g.get j := by
  match j, k, h with
  | 0, 0, h | 1, 1, h | 2, 2, h | 3, 3, h => exact absurd rfl h
  | 0, 1, _ | 0, 2, _ | 0, 3, _ | 1, 0, _ | 1, 2, _ | 1, 3, _
  | 2, 0, _ | 2, 1, _ | 2, 3, _ | 3, 0, _ | 3, 1, _ | 3, 2, _ => rfl

/-- Two states with the same four words are the same. -/
theorem genState_ext_get {g h : GenState} (e : ∀ k, g.get k = h.get k) : g = h := by
  cases g
  cases h
  exact congr (congr (congr (congrArg GenState.mk (e 0)) (e 1)) (e 2)) (e 3)

end Words

end Sys2Proof.Machine
end

