-- ==== Sys2Proof/Laws/Ops.lean ====
section
/-! SUPPORT. What the shared operations do, each said once, and what one step can do (step_cases). -/

namespace Sys2Proof.Machine

/-- Responding ends in a next state that differs in the response only. -/
theorem respond_eq (data : Word) (s : State) : respond data s = .next { s with rsp := some ⟨false, data⟩ } := rfl

/-- The exception `IllegalOp` ends in a next state that differs in the response only. -/
theorem raiseIllegalOp_eq (s : State) : raiseIllegalOp s = .next { s with rsp := some ⟨true, 1⟩ } := rfl

/-- The shape of every meaning: a next state in which the four words and the response may be new. -/
theorem exec_shape (i : Instr) (s : State) :
    ∃ g r, exec i s = .next { s with S := g, rsp := some r } := by
  cases i with
  | int frm upto =>
    by_cases h : frm = upto
    · exact ⟨s.S, Response.ok (sext64 frm), by simp [exec, execInt, h, respond]⟩
    · exact ⟨s.S.step, Response.ok (sext64 (fmtInt frm upto s.S.out)), by simp [exec, execInt, h, respond, drawn]⟩
  | _ => exact ⟨_, _, rfl⟩

/-- Retiring a next state. -/
@[simp] theorem retire_next (f : InFlight) (t : State) :
    retire f (.next t) = .next { t with inFlight := none, cmdReady := f.readyEarly } := rfl

/-- A command is accepted only when nothing is in flight, `cmd_ready` is 1, `rst` is 0 and it is presented. -/
theorem accepting_eq_some {s : State} {cw : CmdWord} :
    s.accepting = some cw ↔ s.rst = false ∧ s.cmdReady = true ∧ s.inFlight = none ∧ s.presented = some cw := by
  unfold State.accepting
  by_cases h : s.rst = false ∧ s.cmdReady = true ∧ s.inFlight = none
  · simp [h]
  · rw [if_neg h]
    exact ⟨fun e => absurd e (by simp), fun e => absurd ⟨e.1, e.2.1, e.2.2.1⟩ h⟩

/-- The clock edge at which `cw` is accepted. -/
theorem clock_accepting {s : State} {cw : CmdWord} (h : s.accepting = some cw) :
    s.clock = { s with
      cmdReady := false
      rsp := none
      inFlight := some ⟨cw, (s.paceFor cw).wait, (s.paceFor cw).readyEarly⟩
      host := s.hostNext
      paces := s.paces.tail
      cycle := s.cycle + 1 } := by
  simp [State.clock, h]

/-- The clock edge at which nothing is accepted. -/
theorem clock_not_accepting {s : State} (h : s.accepting = none) :
    s.clock = { s with
      cmdReady := s.inFlight.isNone
      rsp := none
      host := s.hostNext
      cycle := s.cycle + 1 } := by
  simp [State.clock, h]

/-- The clock edge leaves the four words alone and shows no response. -/
@[simp] theorem clock_S (s : State) : s.clock.S = s.S := by
  unfold State.clock
  split <;> rfl

@[simp] theorem clock_rsp (s : State) : s.clock.rsp = none := by
  unfold State.clock
  split <;> rfl

@[simp] theorem clock_host (s : State) : s.clock.host = s.hostNext := by
  unfold State.clock
  split <;> rfl

@[simp] theorem clock_cycle (s : State) : s.clock.cycle = s.cycle + 1 := by
  unfold State.clock
  split <;> rfl

/-- After the clock edge `cmd_ready` is 1 exactly when no command is in flight. -/
theorem clock_cmdReady (s : State) : s.clock.cmdReady = s.clock.inFlight.isNone := by
  unfold State.clock
  split <;> rfl

/-- Which command is in flight after the clock edge: the one that was, or the one accepted. -/
theorem clock_inFlight {s : State} {f : InFlight} (h : s.clock.inFlight = some f) :
    (s.accepting = none ∧ s.inFlight = some f) ∨
      (s.accepting = some f.word ∧ s.inFlight = none ∧ f.wait = (s.paceFor f.word).wait ∧
        f.readyEarly = (s.paceFor f.word).readyEarly) := by
  cases ha : s.accepting with
  | none => exact .inl ⟨rfl, by simpa [clock_not_accepting ha] using h⟩
  | some cw =>
    rw [clock_accepting ha] at h
    cases Option.some.inj h
    exact .inr ⟨rfl, (accepting_eq_some.1 ha).2.2.1, rfl, rfl⟩

/-- Everything one step can do: reset, an idle cycle, a waiting cycle, or the end of a command. -/
theorem step_cases {s t : State} (h : step s = .next t) :
    (s.rst = true ∧ t = s.afterReset) ∨
    (s.rst = false ∧ s.clock.inFlight = none ∧ t = s.clock) ∨
    (∃ f n, s.rst = false ∧ s.clock.inFlight = some f ∧ f.wait = n + 1 ∧ t = s.clock.waiting f n) ∨
    (∃ f g r, s.rst = false ∧ s.clock.inFlight = some f ∧ f.wait = 0 ∧
      exec (decode f.word) s.clock = .next { s.clock with S := g, rsp := some r } ∧
      t = { s.clock with S := g, rsp := some r, inFlight := none, cmdReady := f.readyEarly }) := by
  unfold step at h
  cases hr : s.rst with
  | true =>
    rw [hr, if_pos rfl] at h
    exact .inl ⟨rfl, (Host.Outcome.next.inj h).symm⟩
  | false =>
    rw [hr, if_neg Bool.false_ne_true] at h
    cases hf : s.clock.inFlight with
    | none =>
      rw [hf] at h
      exact .inr (.inl ⟨rfl, rfl, (Host.Outcome.next.inj h).symm⟩)
    | some f =>
      rw [hf] at h
      obtain ⟨w, n, e⟩ := f
      cases n with
      | zero =>
        obtain ⟨g, r, hg⟩ := exec_shape (decode w) s.clock
        simp only [hg, retire_next] at h
        exact .inr (.inr (.inr ⟨_, g, r, rfl, rfl, rfl, hg, (Host.Outcome.next.inj h).symm⟩))
      | succ n => exact .inr (.inr (.inl ⟨_, n, rfl, rfl, rfl, (Host.Outcome.next.inj h).symm⟩))

end Sys2Proof.Machine
end

