-- ==== Sys2Proof/Laws/PerInstr.lean ====
section
/-! SUPPORT. Laws stated of every constructor of Instr. -/

namespace Sys2Proof.Laws

/-- The opcode 30_encoding.md R58 gives each command. -/
def opcodeOf : Instr → Nat
  | .init _ => 0
  | .next => 1
  | .dbl => 2
  | .int _ _ => 3
  | .jump => 4
  | .ljump => 5
  | .sets k _ => 8 + k.val
  | .gets k => 12 + k.val
  | .illegal op => op.toNat

/-- The bits of a command word built from its parts. -/
theorem getLsbD_commandWord (op : Opcode) (arg : Word) (i : Nat) :
    (commandWord op arg).getLsbD i = if i < 64 then arg.getLsbD i else op.getLsbD (i - 64) :=
  (BitVec.getLsbD_append (x := op) (y := arg)).trans (by simp)

/-- The opcode field of a command word built from its parts. -/
theorem opField_commandWord (op : Opcode) (arg : Word) : opField (commandWord op arg) = op := by
  apply BitVec.eq_of_getLsbD_eq
  intro i hi
  simp [opField, getLsbD_commandWord, hi]

/-- The argument field of a command word built from its parts. -/
theorem argField_commandWord (op : Opcode) (arg : Word) : argField (commandWord op arg) = arg := by
  apply BitVec.eq_of_getLsbD_eq
  intro i hi
  simp [argField, getLsbD_commandWord, hi]

namespace OpcodeField

/-- The encoder puts the opcode of 30_encoding.md R58 into bits 67:64. -/
def Statement (i : Instr) : Prop := (opField (encode i)).toNat = opcodeOf i

theorem init (seed : Word) : Statement (.init seed) := by simp [Statement, encode, opField_commandWord, opcodeOf]

theorem next : Statement .next := by simp [Statement, encode, opField_commandWord, opcodeOf]

theorem dbl : Statement .dbl := by simp [Statement, encode, opField_commandWord, opcodeOf]

theorem int (frm upto : Half) : Statement (.int frm upto) := by
  simp [Statement, encode, opField_commandWord, opcodeOf]

theorem jump : Statement .jump := by simp [Statement, encode, opField_commandWord, opcodeOf]

theorem ljump : Statement .ljump := by simp [Statement, encode, opField_commandWord, opcodeOf]

theorem sets (k : Fin 4) (v : Word) : Statement (.sets k v) := by
  simp only [Statement, encode, opField_commandWord, opcodeOf]
  revert k
  decide

theorem gets (k : Fin 4) : Statement (.gets k) := by
  simp only [Statement, encode, opField_commandWord, opcodeOf]
  revert k
  decide

theorem illegal (op : Opcode) : Statement (.illegal op) := by
  simp [Statement, encode, opField_commandWord, opcodeOf]

end OpcodeField

end Sys2Proof.Laws
end

