-- ==== Sys2Proof/Laws/Runs.lean ====
section
/-! SUPPORT. What the terms of Safety.lean give one step: the effect of a command read off a step, the word presented, and
a host that never resets. -/

namespace Sys2Proof.Machine

/-- A word is presented exactly when the host sends it or offers it. -/
theorem presented_eq_some {s : State} {cw : CmdWord} :
    s.presented = some cw ↔ ∃ rest, s.host = .send cw :: rest ∨ s.host = .offer cw :: rest := by
  unfold State.presented
  rcases s.host with _ | ⟨a, l⟩
  · simp
  · cases a <;> simp

/-- The effect of a command is what `exec` does to the words, from any state with those words. -/
theorem effect_of_exec {i : Instr} {s : State} {g : GenState} {r : Response}
    (h : exec i s = .next { s with S := g, rsp := some r }) : effect i s.S = some (g, r) := by
  unfold effect
  cases i with
  | int frm upto =>
    by_cases hab : frm = upto <;> simp only [exec, execInt, hab, if_true, if_false, respond, drawn] at h ⊢ <;>
      cases Host.Outcome.next.inj h <;> rfl
  | _ =>
    simp only [exec, execInit, execNext, execDbl, execJump, execLjump, execSets, execGets, execIllegal, respond,
      raiseIllegalOp, drawn] at h ⊢
    cases Host.Outcome.next.inj h
    rfl

/-- Without reset in the host, `rst` is 0 in this cycle. -/
theorem NoReset_rst {s : State} (h : s.NoReset) : s.rst = false := by
  unfold State.NoReset at h
  unfold State.rst
  split
  · rename_i e
    simp [e] at h
  · rfl

/-- Without reset in the host, there is none in what is left of it after this cycle. -/
theorem NoReset_clock {s : State} (h : s.NoReset) : HostAction.reset ∉ s.clock.host := by
  unfold State.NoReset at h
  rw [clock_host]
  unfold State.hostNext
  split <;> rename_i e <;> rw [e] at h
  · exact h
  · split
    · exact h
    · exact fun m => h (.tail _ m)
  all_goals exact fun m => h (.tail _ m)

end Sys2Proof.Machine
end

