-- ==== Sys2Proof/Tests/Slice0.lean ====
section
/-! SUPPORT. The model's own tests (expected results from the spec's text and tables, named at each), and for every
statement with hypotheses a witness that meets them. -/

namespace Sys2Proof.Tests

open Sys2Proof.Machine

/-- The reset state but for the four words. -/
def withWords (a b c d : Word) : State := { State.reset with S := ⟨a, b, c, d⟩ }

/-- The state `(1, 2, 3, 4)` of the spec's examples. -/
def g1234 : GenState := ⟨1, 2, 3, 4⟩

/-- The state after `INIT 0xDEADBEEF` (95_test_vectors.md section 2.1). -/
def gBeef : GenState := ⟨0x4ADFB90F68C9EB9B, 0xDE586A3141A10922, 0x021FBC2F8E1CFC1D, 0x7466CE737BE16790⟩

/-- The next state of an outcome, if it is one. -/
def nextOf : Result → Option State
  | .next t => some t
  | .fault _ => none
  | .refused _ => none

/-! ### WellFormed: the one check, and an ill-formed term it refuses -/

theorem test_wellFormed_refuses_legal_opcode : (Instr.illegal 5).wellFormed = false := by decide
theorem test_wellFormed_accepts_illegal_opcodes :
    (Instr.illegal 6).wellFormed = true ∧ (Instr.illegal 7).wellFormed = true := by decide

/-! ### Decoding: words written out from the encodings of 30_encoding.md R58, R65 -/

theorem test_decode_init : decode 0x0FEDCBA9876543210 = .init 0xFEDCBA9876543210 := by decide
theorem test_decode_next : decode 0x1FFFFFFFFFFFFFFFF = .next := by decide
theorem test_decode_dbl : decode 0x2DEADBEEFDEADBEEF = .dbl := by decide
theorem test_decode_int : decode 0x3FFFFD36300000064 = .int 100 (-11421) := by decide
theorem test_decode_jump : decode 0x40000000000000001 = .jump := by decide
theorem test_decode_ljump : decode 0x50000000000000000 = .ljump := by decide
theorem test_decode_sets : decode 0x96E789E6AA1B965F4 = .sets 1 0x6E789E6AA1B965F4 := by decide
theorem test_decode_sets_last : decode 0xBFFFFFFFFFFFFFFFF = .sets 3 0xFFFFFFFFFFFFFFFF := by decide
theorem test_decode_gets : decode 0xD123456789ABCDEF0 = .gets 1 := by decide
theorem test_decode_illegal : decode 0x6000000000000002A = .illegal 6 := by decide
theorem test_decode_too_wide : decodeBits 0x100000000000000000 = .error .widerThanCommandWord := by rfl
theorem test_decodeTableWord : decodeTableWord 72 0xE0000000000000000 = some (.gets 2) := by decide

/-- `INT -5, 5` is `0x300000005FFFFFFFB`, `SETS 2, 3` is `0xA0000000000000003` (30_encoding.md R65). -/
theorem test_encode : encode (.int (-5) 5) = 0x300000005FFFFFFFB ∧ encode (.sets 2 3) = 0xA0000000000000003 := by decide

/-! ### Commands: 95_test_vectors.md sections 2.1 to 2.6, 96_more_test_vectors.md sections A to C -/

theorem test_init_zero : effect (.init 0) g1234 = some
    (⟨0xE220A8397B1DCDAF, 0x6E789E6AA1B965F4, 0x06C45D188009454F, 0xF88BB8A8724C81EC⟩, ⟨false, 0⟩) := by decide
theorem test_init_wraps : effect (.init 0xFFFFFFFFFFFFFFFF) g1234 = some
    (⟨0xE4D971771B652C20, 0xE99FF867DBF682C9, 0x382FF84CB27281E9, 0x6D1DB36CCBA982D2⟩, ⟨false, 0⟩) := by decide
theorem test_next : effect .next gBeef = some
    (⟨0xE0E11D4D52898529, 0x96986F11A7741EA4, 0x9CA28662F4911786, 0x0DD65547D4884748⟩,
      ⟨false, 0xC5555444A74D7E83⟩) := by decide
theorem test_next_all_ones : effect .next ⟨-1, -1, -1, -1⟩ = some
    (⟨-1, -1, 0xFFFFFFFFFFFE0000, 0⟩, ⟨false, 0xFFFFFFFFFFFFEDF7⟩) := by decide
theorem test_dbl : effect .dbl g1234 = some
    (⟨0x7, 0, 0x40002, 0xC00000000000⟩, ⟨false, 0x3CC6800000000000⟩) := by decide
theorem test_dbl_truncates : fmtDbl 0xFFFFFFFFFFFFFFFF = 0x3FEFFFFFFFFFFFFF ∧ fmtDbl 0x0020000000000003 = 0x3F40000000000001 := by
  decide
theorem test_int_descending : effect (.int (-3) (-7)) gBeef = some
    (⟨0xE0E11D4D52898529, 0x96986F11A7741EA4, 0x9CA28662F4911786, 0x0DD65547D4884748⟩, ⟨false, 0⟩) := by decide
theorem test_int_wraps : effect (.int 2147483647 (-2147483648)) g1234 = some
    (⟨0x7, 0, 0x40002, 0xC00000000000⟩, ⟨false, 0xFFFFFFFF80002CFF⟩) := by decide
set_option maxRecDepth 20000 in
theorem test_jump : effect .jump g1234 = some
    (⟨0x8C7A153956B5F3D1, 0x701F1A713401D85E, 0x6527F66A65469085, 0x8386B786C4408050⟩, ⟨false, 0⟩) := by decide
set_option maxRecDepth 20000 in
theorem test_ljump : effect .ljump g1234 = some
    (⟨0x096A8EB71295A400, 0xDBF84991E50F4516, 0x534EE745810D2A0E, 0x31655CA1A2215BF1⟩, ⟨false, 0⟩) := by decide
theorem test_sets : effect (.sets 3 0) g1234 = some (⟨1, 2, 3, 0⟩, ⟨false, 0⟩) := by decide
theorem test_gets : effect (.gets 2) g1234 = some (g1234, ⟨false, 3⟩) := by decide
theorem test_illegal : effect (.illegal 7) g1234 = some (g1234, ⟨true, 1⟩) := by decide

/-- 96_more_test_vectors.md section E. -/
theorem test_unstep : GenState.unstep ⟨0x7, 0, 0x40002, 0xC00000000000⟩ = g1234 ∧ unout 0x2D00 = 2 := by decide

/-- The binary64 pattern of 0.5 stands for 1/2 (42_formatters.md R106, R107). -/
theorem test_dblValue : dblValue 0x3FE0000000000000 = some (1 / 2) := by
  have e : dblExponent 0x3FE0000000000000 = 1022 := by decide
  have f : dblFraction 0x3FE0000000000000 = 0 := by decide
  have g : dblSign 0x3FE0000000000000 = false := by decide
  norm_num [dblValue, e, f, g]

/-! ### Assembler: 30_encoding.md R65 -/

theorem test_asm_comment : assembleLine ['N', 'E', 'X', 'T', ' ', ';', 'x'] = .ok [.next] := by decide
theorem test_asm_out_of_range : assembleLine "GETS 4".toList = .error .outOfRange := by decide

/-! ### One clock edge: 30_encoding.md R56, R57, 70_reset_and_hazards.md R185, R186, R198 -/

/-- A block to which the host sends `NEXT` and then pauses, with the given latency beyond one cycle. -/
def sending (wait : Nat) (early : Bool) : State :=
  { withWords 1 2 3 4 with host := [.send 0x10000000000000000, .pause], paces := [⟨wait, early⟩] }

/-- Latency 1: accepted and answered at one edge. -/
theorem test_step_latency_one : nextOf (step (sending 0 false)) = some
    { withWords 0x7 0 0x40002 0xC00000000000 with
      cmdReady := false, rsp := some ⟨false, 0x2D00⟩, host := [.pause], cycle := 1 } := by decide

/-- The output ports in the response cycle show the response (30_encoding.md R57; 95_test_vectors.md section 2.2). -/
theorem test_step_output_ports :
    (nextOf (step (sending 0 false))).map (fun t => (t.rspValid, t.rspData, t.rspErr)) = some (true, 0x2D00, false) := by
  decide

/-- Latency 3: after acceptance the block is busy and the words are as they were. -/
theorem test_step_accepts : nextOf (step (sending 2 true)) = some
    { withWords 1 2 3 4 with
      cmdReady := false, inFlight := some ⟨0x10000000000000000, 1, true⟩, host := [.pause], cycle := 1 } := by decide

/-- A command in flight, due at this edge, which the host resets. -/
def resetInFlight : State :=
  { withWords 1 2 3 4 with cmdReady := false, inFlight := some ⟨0x10000000000000000, 0, true⟩, host := [.reset] }

/-- Reset abandons it: no response, zero words. -/
theorem test_step_reset : nextOf (step resetInFlight) = some { State.reset with cycle := 1 } := by decide

/-- A busy block to which the host offers and sends words. -/
def busy (a : HostAction) : State :=
  { withWords 1 2 3 4 with cmdReady := false, inFlight := some ⟨0x10000000000000000, 1, true⟩, host := [a] }

/-- What is presented while busy is not queued: an offer is gone, a send stays. -/
theorem test_step_busy :
    (nextOf (step (busy (.offer 0x00000000000000000)))).map (·.host) = some [] ∧
    (nextOf (step (busy (.send 0x00000000000000000)))).map (·.host) = some [.send 0] := by decide

/-- A word placed by withFetchWord is run by the very next step. -/
theorem test_withFetchWord : (nextOf (step (State.reset.withFetchWord 72 0x90000000000000002))).map (·.S) =
    some ⟨0, 2, 0, 0⟩ := by decide

/-! ### Witnesses: concrete states and operands that meet the hypotheses of the statements -/

/-- DecoderIsCompleteAndUnambiguous, ExactlyOpcodes6And7RaiseIllegalOp, and the decoding clauses of the commands: a word of
every opcode, with the least and the greatest argument. -/
theorem witness_every_opcode : ∀ op : Fin 16,
    (commandWord (BitVec.ofNat 4 op.val) 0).toNat / 2 ^ 64 = op.val ∧
    (commandWord (BitVec.ofNat 4 op.val) 0xFFFFFFFFFFFFFFFF).toNat / 2 ^ 64 = op.val := by decide

theorem witness_DecodeOfEncodeIsTheInstruction : (Instr.illegal 7).wellFormed = true ∧ (Instr.sets 3 0).wellFormed = true := by
  decide

theorem witness_IgnoredBitsChangeNothing :
    (15 : Opcode) ∈ ([1, 2, 4, 5, 12, 13, 14, 15] : List Opcode) ∧ (11 : Opcode) ∈ ([0, 3, 8, 9, 10, 11] : List Opcode) := by
  decide

theorem witness_PrimitivesWrapModulo2pow64 : (63 : Nat) ≤ 63 := by decide

theorem witness_RotationMovesEveryBit : (1 : Nat) ≤ 63 ∧ (63 : Nat) ≤ 63 ∧ (63 : Nat) < 64 := by decide

theorem witness_MsbIsTheHighestSetBit : (0x8000000000000000 : Word) ≠ 0 ∧ msb 0x8000000000000000 < 64 := by decide

theorem witness_SmixIsABijectionFixingZero : (0 : Word) ≠ 0xFFFFFFFFFFFFFFFF := by decide

theorem witness_DifferentSeedsGiveDifferentStreams : (0 : Word) ≠ 1 := by decide

theorem witness_ZeroIsTheOnlyFixedPoint : GenState.zero.step = GenState.zero ∧ g1234 ≠ GenState.zero := by decide

theorem witness_DifferentTablesActDifferently :
    ∀ g : GenState, GenState.combine jumpPoly.coeff 256 g = GenState.combine jumpPoly.coeff 256 g := fun _ => rfl

theorem witness_DoublesLieInTheUnitInterval : (0x001FFFFFFFFFFFFF : Word) ≠ 0 ∧ (0 : Word) ≤ 0xFFFFFFFFFFFFF800 := by decide

/-- The truncated value of 1 is a value, as the monotonicity clause assumes. -/
theorem witness_DoublesLieInTheUnitInterval_values : dblValue (fmtDbl 0) = some 0 ∧ (0 : Word) ≤ 0 := by
  have e : fmtDbl 0 = 0 := by decide
  have x : dblExponent 0 = 0 := by decide
  have f : dblFraction 0 = 0 := by decide
  exact ⟨by rw [e, dblValue, if_pos x, if_pos f], by decide⟩

theorem witness_IntAscendingStaysInTheRange :
    (0x80000000 : Half).toInt < (0x7FFFFFFF : Half).toInt ∧ (0x7FFFFFFF : Half).toInt = (0x7FFFFFFE : Half).toInt + 1 := by
  decide

/-- Descending operands with a sum that just fits and one that just wraps (raw values 0 and 1). -/
theorem witness_IntDescendingGoesUpAndWraps :
    (0 : Half).toInt < (0x7FFFFFFF : Half).toInt ∧
    (0x7FFFFFFF : Half).toInt + ((0 % 2147483647 : Nat) : Int) ≤ 2 ^ 31 - 1 ∧
    (2 : Int) ^ 31 - 1 < (0x7FFFFFFF : Half).toInt + ((1 % 2147483647 : Nat) : Int) := by decide

theorem witness_IntExtremeWidths :
    (0 : Word).toNat % (2 ^ 32 - 1) = 0 ∧ 1 ≤ (1 : Word).toNat % (2 ^ 32 - 1) := by decide

theorem witness_IntModuloBias : (0 : Half) ≠ 3 ∧ 2 < ((3 : Half).toInt - (0 : Half).toInt).natAbs := by decide

theorem witness_JumpsAreLinearBijections : jumpPoly ∈ [jumpPoly, longJumpPoly] ∧ g1234 ≠ GenState.zero := by decide

theorem witness_SetsWritesOneWord : (0 : Fin 4) ≠ 3 := by decide

theorem witness_LoadsThenReadsTransfersTheState :
    List.Perm [Instr.sets 3 4, .sets 0 1, .sets 1 2, .sets 2 3] (Instr.loads 1 2 3 4) ∧
    List.Perm [Instr.gets 3, .gets 2, .gets 1, .gets 0] Instr.reads := by decide

/-- CommandsWriteOnlyTheirWords: every instruction has a next state. -/
theorem witness_CommandsWriteOnlyTheirWords (i : Instr) : ∃ t, exec i (withWords 1 2 3 4) = .next t :=
  let ⟨_, _, h⟩ := exec_shape i (withWords 1 2 3 4)
  ⟨_, h⟩

/-- CommandsReadOnlyTheirWords: every instruction has next states from two states that differ in `S[0]` and agree in
`S[1]`, and from two with the same words. -/
theorem witness_CommandsReadOnlyTheirWords (i : Instr) :
    (∃ t t', exec i (withWords 1 2 3 4) = .next t ∧ exec i (withWords 9 2 3 4) = .next t') ∧
    (withWords 1 2 3 4).S.s1 = (withWords 9 2 3 4).S.s1 ∧
    (withWords 1 2 3 4).S = ({ withWords 1 2 3 4 with cmdReady := false } : State).S ∧
    ∃ t', exec i { withWords 1 2 3 4 with cmdReady := false } = .next t' :=
  let ⟨_, _, h⟩ := exec_shape i (withWords 1 2 3 4)
  let ⟨_, _, h'⟩ := exec_shape i (withWords 9 2 3 4)
  let ⟨_, _, h''⟩ := exec_shape i { withWords 1 2 3 4 with cmdReady := false }
  ⟨⟨_, _, h, h'⟩, rfl, rfl, ⟨_, h''⟩⟩

theorem witness_ZeroStateStaysZeroForEver :
    ∀ i ∈ [Instr.next, .jump, .illegal 6], (∀ seed, i ≠ .init seed) ∧ ∀ k v, i ≠ .sets k v := by
  intro i h
  fin_cases h <;> exact ⟨fun _ => by simp, fun _ _ => by simp⟩

theorem witness_DrawsMoveTheStreamByOne :
    ∀ i ∈ [Instr.next, .int 5 5, .gets 0],
      i = .next ∨ i = .dbl ∨ (∃ a b, i = .int a b) ∨ (∃ k, i = .gets k) ∨ ∃ op, i = .illegal op := by
  intro i h
  fin_cases h
  · exact .inl rfl
  · exact .inr (.inr (.inl ⟨5, 5, rfl⟩))
  · exact .inr (.inr (.inr (.inl ⟨0, rfl⟩)))

theorem witness_ValidStatesAreNeverZero : (jumpWith jumpPoly (expandSeed 0).step).Valid :=
  .jump (.draw (.init 0))

/-- StepRunsTheDecodedCommand: a command accepted with latency 1, and one in flight that is due. -/
theorem witness_StepRunsTheDecodedCommand :
    ((sending 0 true).accepting = some 0x10000000000000000 ∧ ((sending 0 true).paceFor 0x10000000000000000).wait = 0) ∧
    (∃ f, State.rst { resetInFlight with host := [] } = false ∧
      ({ resetInFlight with host := [] } : State).inFlight = some f ∧ f.wait = 0) :=
  ⟨by decide, ⟨_, rfl, rfl, rfl⟩⟩

/-- ResetWins: a reset over a command in flight; a waiting command and one that ends, without reset. -/
theorem witness_ResetWins :
    resetInFlight.rst = true ∧
    (∃ t f, (busy .pause).rst = false ∧ (busy .pause).inFlight = some f ∧ f.wait = 1 ∧ step (busy .pause) = .next t) ∧
    (∃ t f, State.rst { resetInFlight with host := [] } = false ∧
      ({ resetInFlight with host := [] } : State).inFlight = some f ∧ f.wait = 0 ∧
      step { resetInFlight with host := [] } = .next t) :=
  ⟨rfl, ⟨_, _, rfl, rfl, rfl, rfl⟩, ⟨_, _, rfl, rfl, rfl, rfl⟩⟩

theorem witness_StepKeepsPortConsistency : ∃ t, (busy .pause).PortsOk ∧ step (busy .pause) = .next t :=
  ⟨_, ⟨fun _ => ⟨rfl, rfl⟩, fun h => by cases h⟩, rfl⟩

/-- A block that is ready, to which the host offers `NEXT` for one cycle, with the given latency beyond one cycle. -/
def offering (wait : Nat) : State :=
  { withWords 1 2 3 4 with host := [.offer 0x10000000000000000], paces := [⟨wait, true⟩] }

/-- HandshakeReadyWindow, acceptance: a word sent and a word offered are accepted, and are in flight or answered at once. -/
theorem witness_HandshakeReadyWindow_accepting :
    (∃ t, (sending 2 true).PortsOk ∧ (sending 2 true).rst = false ∧ step (sending 2 true) = .next t ∧
      (sending 2 true).accepting = some 0x10000000000000000 ∧ t.rsp = none ∧ t.inFlight ≠ none) ∧
    (∃ t, (offering 1).PortsOk ∧ (offering 1).rst = false ∧ step (offering 1) = .next t ∧
      (offering 1).accepting = some 0x10000000000000000 ∧ t.rsp = none ∧ t.inFlight ≠ none ∧ t.host = []) ∧
    (∃ t, (offering 0).PortsOk ∧ (offering 0).rst = false ∧ step (offering 0) = .next t ∧
      (offering 0).accepting = some 0x10000000000000000 ∧ t.rsp ≠ none) :=
  ⟨⟨_, ⟨fun h => absurd rfl h, fun _ _ => rfl⟩, rfl, rfl, by decide, rfl, by decide⟩,
   ⟨_, ⟨fun h => absurd rfl h, fun _ _ => rfl⟩, rfl, rfl, by decide, rfl, by decide, rfl⟩,
   ⟨_, ⟨fun h => absurd rfl h, fun _ _ => rfl⟩, rfl, rfl, by decide, by decide⟩⟩

/-- HandshakeReadyWindow, nothing accepted: a busy block to which a word is sent or offered, and a response cycle with
`cmd_ready` = 0. -/
theorem witness_HandshakeReadyWindow_busy :
    (∃ t, (busy (.send 0)).PortsOk ∧ (busy (.send 0)).rst = false ∧ step (busy (.send 0)) = .next t ∧
      (busy (.send 0)).cmdReady = false ∧ (busy (.send 0)).accepting = none ∧ (busy (.send 0)).host = [.send 0]) ∧
    (∃ t, (busy (.offer 0)).PortsOk ∧ (busy (.offer 0)).rst = false ∧ step (busy (.offer 0)) = .next t ∧
      (busy (.offer 0)).accepting = none ∧ (busy (.offer 0)).host = [.offer 0]) ∧
    (∃ s t : State, s.PortsOk ∧ s.rst = false ∧ step s = .next t ∧ s.rsp ≠ none ∧ s.accepting = none) :=
  ⟨⟨_, ⟨fun _ => ⟨rfl, rfl⟩, fun h => by cases h⟩, rfl, rfl, rfl, rfl, rfl⟩,
   ⟨_, ⟨fun _ => ⟨rfl, rfl⟩, fun h => by cases h⟩, rfl, rfl, rfl, rfl⟩,
   ⟨{ withWords 1 2 3 4 with cmdReady := false, rsp := some ⟨false, 0⟩ }, _,
     ⟨fun h => absurd rfl h, fun _ h => by cases h⟩, rfl, rfl, by decide, rfl⟩⟩

theorem witness_BusyBlockIgnoresTheCommandPort :
    ∃ t, ((busy .pause).cmdReady = false ∨ (busy .pause).inFlight ≠ none) ∧
      State.rst { busy .pause with host := [.send 0] } = false ∧ State.rst { busy .pause with host := [] } = false ∧
      step { busy .pause with host := [.send 0] } = .next t :=
  ⟨_, .inl rfl, rfl, rfl, rfl⟩

theorem witness_StateChangesOnlyWithAResponse :
    ∃ t, step (sending 0 true) = .next t ∧ t.S ≠ (sending 0 true).S :=
  ⟨_, rfl, by decide⟩

/-- AcceptedCommandIsAnsweredInTime: the least latency, and one with cycles in between. -/
theorem witness_AcceptedCommandIsAnsweredInTime :
    ((sending 0 true).accepting = some 0x10000000000000000 ∧ (sending 0 true).NoReset ∧
      ((sending 0 true).paceFor 0x10000000000000000).wait = 0) ∧
    ((sending 2 true).accepting = some 0x10000000000000000 ∧ (sending 2 true).NoReset ∧
      1 ≤ 2 ∧ 2 ≤ ((sending 2 true).paceFor 0x10000000000000000).wait) := by
  refine ⟨⟨by decide, ?_, by decide⟩, ⟨by decide, ?_, by decide, by decide⟩⟩ <;> simp [State.NoReset, sending]

/-- HandshakeAbstractionIsExact: a run of one cycle that ends with a response, and one that ends with the command in
flight. -/
theorem witness_HandshakeAbstractionIsExact :
    (∃ t, (sending 0 true).inFlight = none ∧ (sending 0 true).rsp = none ∧ (sending 0 true).NoReset ∧
      (sending 0 true).after 1 = some t ∧ t.inFlight = none) ∧
    (∃ t f, (sending 2 true).inFlight = none ∧ (sending 2 true).rsp = none ∧ (sending 2 true).NoReset ∧
      (sending 2 true).after 1 = some t ∧ t.inFlight = some f) :=
  ⟨⟨_, rfl, rfl, by simp [State.NoReset, sending], rfl, rfl⟩,
   ⟨_, _, rfl, rfl, by simp [State.NoReset, sending], rfl, rfl⟩⟩

/-- TimingDoesNotMatter: the same command with latency 1 and with latency 3, in runs of different lengths. -/
theorem witness_TimingDoesNotMatter :
    (sending 0 true).S = (sending 2 false).S ∧
    (sending 0 true).inFlight = none ∧ (sending 2 false).inFlight = none ∧
    (sending 0 true).rsp = none ∧ (sending 2 false).rsp = none ∧
    (sending 0 true).NoReset ∧ (sending 2 false).NoReset ∧
    (((sending 0 true).accepted 2).map decode).take 1 = (((sending 2 false).accepted 4).map decode).take 1 ∧
    ((sending 0 true).delivered 2)[0]? = some ⟨false, 0x2D00⟩ ∧
    ((sending 2 false).delivered 4)[0]? = some ⟨false, 0x2D00⟩ := by
  refine ⟨rfl, rfl, rfl, rfl, rfl, ?_, ?_, by decide, by decide, by decide⟩ <;> simp [State.NoReset, sending]

/-- OnlyResetAndSetsReachTheZeroState: a `SETS` of zero does (95_test_vectors.md section 2.6, row 9). -/
theorem witness_OnlyResetAndSetsReachTheZeroState :
    ∃ t, (withWords 0 0 0 1).S ≠ GenState.zero ∧
      step ((withWords 0 0 0 1).withFetchWord 68 0xB0000000000000000) = .next t ∧ t.S = GenState.zero :=
  ⟨_, by decide, rfl, by decide⟩

end Sys2Proof.Tests
end

-- Proofs of the statements about the primitives of 00_scope.md
section
/-! PROOF. What each primitive of Machine/Ops.lean does to numbers and to bits (00_scope.md R7, R8, R11). -/

namespace Sys2Proof.Machine

/-! ### R7: the primitives on numbers -/

@[simp] theorem toNat_add64 (a b : Word) : (add64 a b).toNat = (a.toNat + b.toNat) % 2 ^ 64 :=
  BitVec.toNat_add a b

@[simp] theorem toNat_mul64 (a b : Word) : (mul64 a b).toNat = a.toNat * b.toNat % 2 ^ 64 :=
  BitVec.toNat_mul a b

@[simp] theorem toNat_xor64 (a b : Word) : (xor64 a b).toNat = a.toNat ^^^ b.toNat :=
  BitVec.toNat_xor a b

@[simp] theorem toNat_or64 (a b : Word) : (or64 a b).toNat = a.toNat ||| b.toNat :=
  BitVec.toNat_or a b

@[simp] theorem toNat_shl64 (x : Word) (k : Nat) : (shl64 x k).toNat = x.toNat * 2 ^ k % 2 ^ 64 := by
  rw [shl64, BitVec.toNat_shiftLeft, Nat.shiftLeft_eq]

@[simp] theorem toNat_shr64 (x : Word) (k : Nat) : (shr64 x k).toNat = x.toNat / 2 ^ k := by
  rw [shr64, BitVec.toNat_ushiftRight, Nat.shiftRight_eq_div_pow]

/-- Settles O8: the number of each primitive's result, lemma by lemma. -/
theorem primitivesWrapModulo2pow64 : Obligations.PrimitivesWrapModulo2pow64 :=
  fun a b k _ => ⟨toNat_add64 a b, toNat_mul64 a b, toNat_xor64 a b, toNat_or64 a b, toNat_shl64 a k, toNat_shr64 a k⟩

/-! ### R8: the rotation on bits -/

/-- The shifts of R8 are the library's rotation. -/
theorem rotl64_eq_rotateLeft (x : Word) {k : Nat} (hk : k < 64) : rotl64 x k = x.rotateLeft k := by
  rw [BitVec.rotateLeft_eq_rotateLeftAux_of_lt hk]
  rfl

/-- Bits 0 to `k - 1` of the result are the top `k` bits, which wrapped around; the others moved up by `k`. -/
theorem getLsbD_rotl64 (x : Word) {k j : Nat} (hk : k < 64) (hj : j < 64) :
    (rotl64 x k).getLsbD j = if j < k then x.getLsbD (64 - k + j) else x.getLsbD (j - k) := by
  rw [rotl64_eq_rotateLeft x hk, BitVec.getLsbD_rotateLeft, Nat.mod_eq_of_lt hk]
  by_cases h : j < k
  · simp [h]
  · simp [h, hj]

/-- Settles O9: whether bit `i` wraps around depends on `i + k < 64`. -/
theorem rotationMovesEveryBit : Obligations.RotationMovesEveryBit := by
  intro x k i hk₁ hk hi
  rw [getLsbD_rotl64 x (by omega) (Nat.mod_lt _ (by decide))]
  by_cases hwrap : i + k < 64
  · rw [Nat.mod_eq_of_lt hwrap, if_neg (by omega), Nat.add_sub_cancel]
  · have hmod : (i + k) % 64 = i + k - 64 := by omega
    rw [hmod, if_pos (by omega)]
    congr 1
    omega

/-! ### R11: the most significant 1 bit -/

theorem msbFrom_le (x : Word) (p : Nat) : msbFrom x p ≤ p := by
  induction p with
  | zero => exact le_rfl
  | succ p ih =>
    rw [msbFrom]
    split
    · exact le_rfl
    · omega

/-- The search passes over clear bits only. -/
theorem getLsbD_eq_false_of_msbFrom_lt (x : Word) {p i : Nat} (h : msbFrom x p < i) (hi : i ≤ p) :
    x.getLsbD i = false := by
  induction p with
  | zero => omega
  | succ p ih =>
    rw [msbFrom] at h
    split at h
    · omega
    · next hclear =>
      obtain rfl | hi := hi.eq_or_lt
      · exact Bool.eq_false_of_not_eq_true hclear
      · exact ih h (by omega)

/-- If there is a 1 bit to find, the search ends at one. -/
theorem getLsbD_msbFrom (x : Word) {p i : Nat} (hi : i ≤ p) (hset : x.getLsbD i = true) :
    x.getLsbD (msbFrom x p) = true := by
  induction p with
  | zero => rwa [msbFrom, ← Nat.le_zero.mp hi]
  | succ p ih =>
    rw [msbFrom]
    split
    · assumption
    · next hclear =>
      obtain rfl | hi := hi.eq_or_lt
      · exact absurd hset hclear
      · exact ih (by omega)

theorem msb_le (x : Word) : msb x ≤ 63 := msbFrom_le x 63

theorem getLsbD_msb {x : Word} (hx : x ≠ 0) : x.getLsbD (msb x) = true := by
  have hset := BitVec.getLsbD_true_ctz_of_ne_zero hx
  have hi := BitVec.lt_of_getLsbD hset
  exact getLsbD_msbFrom x (by omega) hset

theorem getLsbD_eq_false_of_msb_lt (x : Word) {i : Nat} (h : msb x < i) : x.getLsbD i = false := by
  by_cases hi : i ≤ 63
  · exact getLsbD_eq_false_of_msbFrom_lt x h hi
  · exact BitVec.getLsbD_of_ge x i (by omega)

/-- Settles O10, by the search's three facts: its bound, what it passes over and where it ends. -/
theorem msbIsTheHighestSetBit : Obligations.MsbIsTheHighestSetBit :=
  fun x hx => ⟨msb_le x, getLsbD_msb hx, fun _ => getLsbD_eq_false_of_msb_lt x⟩

end Sys2Proof.Machine
end

-- Proofs of the statements about the command word of 30_encoding.md
section
/-! PROOF. The decoder as a table over the sixteen opcodes (30_encoding.md R61 to R63): every command word is its opcode
and its argument, and `commandOf` says which command these two are. -/

namespace Sys2Proof

open Sys2Proof.Machine Sys2Proof.Laws

/-! ### A command word and its two parts -/

/-- The two parts of a command word are the whole of it. -/
theorem commandWord_opField_argField (cw : CmdWord) : commandWord (opField cw) (argField cw) = cw := by
  apply BitVec.eq_of_getLsbD_eq
  intro i hi
  rw [getLsbD_commandWord]
  by_cases h : i < 64
  · simp [h, argField]
  · simp [h, opField, show i - 64 < 4 by omega, show 64 + (i - 64) = i by omega]

/-- The number of the opcode is the quotient of the word's number by 2^64 (30_encoding.md R58). -/
theorem toNat_opField (cw : CmdWord) : (opField cw).toNat = cw.toNat / 2 ^ 64 := by
  have hcw : cw.toNat < 2 ^ 68 := cw.isLt
  rw [opField, BitVec.extractLsb'_toNat, Nat.shiftRight_eq_div_pow]
  omega

/-- A part of the opcode is that part of the word, 64 bits up. -/
theorem extractLsb'_opField (cw : CmdWord) {start len : Nat} (h : start + len ≤ 4) :
    (opField cw).extractLsb' start len = cw.extractLsb' (64 + start) len := by
  apply BitVec.eq_of_getLsbD_eq
  intro i hi
  simp [opField, Nat.add_assoc, show start + i < 4 by omega]

theorem opField_eq_ofNat {cw : CmdWord} {n : Nat} (h : cw.toNat / 2 ^ 64 = n) : opField cw = BitVec.ofNat 4 n := by
  rw [← h, ← toNat_opField, BitVec.ofNat_toNat, BitVec.setWidth_eq]

/-- `from` and `to` are the halves of the argument (30_encoding.md R59). -/
theorem fromField_eq (cw : CmdWord) : fromField cw = (argField cw).extractLsb' 0 32 := by
  simp [fromField, argField]

theorem toField_eq (cw : CmdWord) : toField cw = (argField cw).extractLsb' 32 32 := by
  simp [toField, argField]

theorem toField_eq_ofNat (cw : CmdWord) : toField cw = BitVec.ofNat 32 (cw.toNat / 2 ^ 32) := by
  rw [toField, BitVec.extractLsb', Nat.shiftRight_eq_div_pow]

/-! ### The decoder as a table -/

/-- The command of each opcode by its upper and its lower two bits, with the operands read from the argument
(30_encoding.md R58, R59, R62). -/
def commandOf (op : Opcode) (arg : Word) : Instr :=
  match (op.extractLsb' 2 2).toFin, (op.extractLsb' 0 2).toFin with
  | 0, 0 => .init arg
  | 0, 1 => .next
  | 0, 2 => .dbl
  | 0, 3 => .int (arg.extractLsb' 0 32) (arg.extractLsb' 32 32)
  | 1, 0 => .jump
  | 1, 1 => .ljump
  | 1, 2 => .illegal 6
  | 1, 3 => .illegal 7
  | 2, k => .sets k arg
  | 3, k => .gets k

/-- What `decode` tests and reads are bits of the opcode and of the argument, so the opcode settles each test. -/
theorem decode_eq_commandOf (cw : CmdWord) : decode cw = commandOf (opField cw) (argField cw) := by
  have h67 : cw.getLsbD 67 = (opField cw).getLsbD 3 := by simp [opField]
  have h66 : cw.getLsbD 66 = (opField cw).getLsbD 2 := by simp [opField]
  have h64 : cw.extractLsb' 64 3 = (opField cw).extractLsb' 0 3 := by
    rw [extractLsb'_opField cw (by decide)]
  have hk : kField cw = ((opField cw).extractLsb' 0 2).toFin := by
    rw [kField, extractLsb'_opField cw (by decide)]
  simp only [decode, h67, h66, h64, hk, fromField_eq, toField_eq]
  generalize opField cw = op
  obtain ⟨op⟩ := op
  fin_cases op <;> rfl

theorem decode_commandWord (op : Opcode) (arg : Word) : decode (commandWord op arg) = commandOf op arg := by
  rw [decode_eq_commandOf, opField_commandWord, argField_commandWord]

theorem decode_of_opcode {cw : CmdWord} {n : Nat} (h : cw.toNat / 2 ^ 64 = n) :
    decode cw = commandOf (BitVec.ofNat 4 n) (argField cw) := by
  rw [decode_eq_commandOf, opField_eq_ofNat h]

theorem commandOf_sets (k : Fin 4) (arg : Word) : commandOf (BitVec.ofNat 4 (8 + k.val)) arg = .sets k arg := by
  fin_cases k <;> rfl

theorem commandOf_gets (k : Fin 4) (arg : Word) : commandOf (BitVec.ofNat 4 (12 + k.val)) arg = .gets k := by
  fin_cases k <;> rfl

/-! ### R62: the rows of match and mask -/

/-- No mask has a bit of the argument. -/
theorem argField_mask {row : OpcodeRow} (h : row ∈ opcodeTable) : argField row.mask = 0 := by
  revert row
  decide

theorem commandWord_and (op op' : Opcode) (arg arg' : Word) :
    commandWord op arg &&& commandWord op' arg' = commandWord (op &&& op') (arg &&& arg') :=
  BitVec.and_append

/-- A row looks at the opcode only. -/
theorem covers_commandWord {row : OpcodeRow} (h : row ∈ opcodeTable) (op : Opcode) (arg : Word) :
    row.covers (commandWord op arg) = row.covers (commandWord op 0) := by
  have hmask : row.mask = commandWord (opField row.mask) 0 := by
    rw [← argField_mask h, commandWord_opField_argField]
  rw [OpcodeRow.covers, OpcodeRow.covers, hmask]
  have hzero (x : Word) : x &&& 0 = 0 := BitVec.and_zero
  simp only [commandWord_and, hzero]

theorem mnemonic_commandOf (op : Opcode) (arg : Word) : (commandOf op arg).mnemonic = (commandOf op 0).mnemonic := by
  obtain ⟨op⟩ := op
  fin_cases op <;> rfl

/-- The sixteen opcodes, each with argument 0. -/
theorem opcode_covered_once : ∀ op : Opcode, ∃ row ∈ opcodeTable,
    row.mnemonic = (commandOf op 0).mnemonic ∧ opcodeTable.filter (fun r => r.covers (commandWord op 0)) = [row] := by
  decide

theorem covered_once (cw : CmdWord) : ∃ row ∈ opcodeTable,
    row.mnemonic = (decode cw).mnemonic ∧ opcodeTable.filter (fun r => r.covers cw) = [row] := by
  obtain ⟨row, hrow, hname, hfilter⟩ := opcode_covered_once (opField cw)
  refine ⟨row, hrow, ?_, ?_⟩
  · rw [decode_eq_commandOf, mnemonic_commandOf, hname]
  · rw [← hfilter]
    refine List.filter_congr fun r hr => ?_
    rw [← covers_commandWord hr (opField cw) (argField cw), commandWord_opField_argField]

/-- Settles O2: the table of `commandOf` at each opcode, and that a row's cover depends on the opcode only. -/
theorem decoderIsCompleteAndUnambiguous : Obligations.DecoderIsCompleteAndUnambiguous := by
  refine ⟨fun cw => ⟨decode_of_opcode, decode_of_opcode, decode_of_opcode, fun h => ?_, decode_of_opcode,
    decode_of_opcode, decode_of_opcode, decode_of_opcode, fun k h => ?_, fun k h => ?_⟩, covered_once⟩
  · calc decode cw
      _ = .int ((argField cw).extractLsb' 0 32) ((argField cw).extractLsb' 32 32) := decode_of_opcode h
      _ = .int (fromField cw) (toField cw) := by rw [fromField_eq, toField_eq]
      _ = _ := by rw [toField_eq_ofNat]; rfl
  · exact (decode_of_opcode h).trans (commandOf_sets k _)
  · exact (decode_of_opcode h).trans (commandOf_gets k _)

/-! ### R61: ignored bits -/

theorem opcode_of_illegal_mnemonic :
    ∀ op : Opcode, (commandOf op 0).mnemonic = "(illegal)" → op = 6 ∨ op = 7 := by decide

theorem opcode_of_commandOf_eq_illegal {op o : Opcode} {arg : Word} (h : commandOf op arg = .illegal o) :
    op = 6 ∨ op = 7 :=
  opcode_of_illegal_mnemonic op (by rw [← mnemonic_commandOf op arg, h]; rfl)

/-- Formats N and KN: the argument is not read. -/
theorem commandOf_ignores_arg {op : Opcode} (h : op ∈ [1, 2, 4, 5, 12, 13, 14, 15]) (a b : Word) :
    commandOf op a = commandOf op b := by
  fin_cases h <;> rfl

theorem encode_commandOf_ignored {op : Opcode} (h : op ∈ [1, 2, 4, 5, 12, 13, 14, 15]) (arg : Word) :
    encode (commandOf op arg) = commandWord op 0 := by
  fin_cases h <;> rfl

/-- The other formats: the operands are all of the argument. -/
theorem encode_commandOf_used {op : Opcode} (h : op ∈ [0, 3, 8, 9, 10, 11]) (arg : Word) :
    encode (commandOf op arg) = commandWord op arg := by
  have halves : arg.extractLsb' 32 32 ++ arg.extractLsb' 0 32 = arg := by
    rw [BitVec.extractLsb'_append_extractLsb'_eq_extractLsb' (by decide), BitVec.extractLsb'_eq_self]
  fin_cases h
  · rfl
  · exact congrArg (commandWord 3) halves
  all_goals rfl

/-- Settles O4: by the format of the opcode, neither of whose lists holds 6 or 7. -/
theorem ignoredBitsChangeNothing : Obligations.IgnoredBitsChangeNothing := by
  intro op a b
  simp only [decode_commandWord]
  refine ⟨fun h => ⟨commandOf_ignores_arg h a b, fun o ho => ?_, encode_commandOf_ignored h a⟩,
    fun h => ⟨fun o ho => ?_, encode_commandOf_used h a⟩⟩ <;>
  · obtain rfl | rfl := opcode_of_commandOf_eq_illegal ho <;> exact absurd h (by decide)

/-! ### R63: the illegal opcodes -/

/-- A command that is not illegal completes with `rsp_err` = 0, and at most `S` is new besides. -/
theorem exec_ok {i : Instr} (h : ∀ op, i ≠ .illegal op) (s : State) :
    ∃ g data, exec i s = .next { s with S := g, rsp := some ⟨false, data⟩ } := by
  cases i with
  | illegal op => exact absurd rfl (h op)
  | int frm upto =>
    by_cases heq : frm = upto
    · exact ⟨s.S, sext64 frm, if_pos heq⟩
    · exact ⟨s.S.step, sext64 (fmtInt frm upto s.S.out), if_neg heq⟩
  | _ => exact ⟨_, _, rfl⟩

/-- Settles O5: `decode` gives an illegal command at these two opcodes only. -/
theorem exactlyOpcodes6And7RaiseIllegalOp : Obligations.ExactlyOpcodes6And7RaiseIllegalOp := by
  intro cw s
  refine ⟨fun h => ?_, fun h6 h7 => exec_ok (fun o ho => ?_) s⟩
  · obtain h | h := h <;> rw [decode_of_opcode h] <;> exact raiseIllegalOp_eq s
  · rw [decode_eq_commandOf] at ho
    rw [← toNat_opField] at h6 h7
    obtain h | h := opcode_of_commandOf_eq_illegal ho
    · exact h6 (by rw [h]; rfl)
    · exact h7 (by rw [h]; rfl)

end Sys2Proof
end

-- Proofs of the statements about the Seed Expander of 40_seed_expander.md
section
/-! PROOF. The mixing function as five injective steps that fix 0, and the closed form of the four words
(40_seed_expander.md R81 to R86). -/

namespace Sys2Proof.Machine

/-! ### The steps of the mixing and of the output function -/

/-- The difference of two values with the same image is its own right shift by `k`, so it is 0. -/
theorem xor64_shr64_injective {k : Nat} (hk : 0 < k) : Function.Injective fun z => xor64 z (shr64 z k) := by
  intro z w h
  have hdiff : (z ^^^ w) ^^^ (z ^^^ w) >>> k = 0 :=
    calc (z ^^^ w) ^^^ (z ^^^ w) >>> k
      _ = (z ^^^ z >>> k) ^^^ (w ^^^ w >>> k) := by rw [BitVec.ushiftRight_xor_distrib]; ac_rfl
      _ = 0 := BitVec.xor_eq_zero_iff.mpr h
  have hshift : z ^^^ w = (z ^^^ w) >>> k := BitVec.xor_eq_zero_iff.mp hdiff
  have hnat : (z ^^^ w).toNat = (z ^^^ w).toNat / 2 ^ k := by
    conv_lhs => rw [hshift, BitVec.toNat_ushiftRight, Nat.shiftRight_eq_div_pow]
  have hzero : (z ^^^ w).toNat = 0 := by
    by_contra hne
    have hlt := Nat.div_lt_self (Nat.pos_of_ne_zero hne) (Nat.one_lt_two_pow hk.ne')
    omega
  exact BitVec.xor_eq_zero_iff.mp (BitVec.eq_of_toNat_eq hzero)

/-- An odd factor is coprime to 2^64. -/
theorem mul64_injective {c : Word} (hc : Odd c.toNat) : Function.Injective fun z => mul64 z c := by
  intro z w h
  have h : mul64 z c = mul64 w c := h
  have hmod : z.toNat * c.toNat ≡ w.toNat * c.toNat [MOD 2 ^ 64] := by
    rw [Nat.ModEq, ← toNat_mul64, h, toNat_mul64]
  have hcoprime : Nat.Coprime (2 ^ 64) c.toNat := Nat.Coprime.pow_left 64 (Nat.coprime_two_left.mpr hc)
  exact BitVec.eq_of_toNat_eq
    ((Nat.ModEq.cancel_right_of_coprime hcoprime hmod).eq_of_lt_of_lt z.isLt w.isLt)

/-- Every bit of the argument is a bit of the result. -/
theorem rotl64_injective {k : Nat} (hpos : 1 ≤ k) (hk : k ≤ 63) : Function.Injective fun x => rotl64 x k := by
  intro x y h
  have h : rotl64 x k = rotl64 y k := h
  apply BitVec.eq_of_getLsbD_eq
  intro i hi
  rw [← rotationMovesEveryBit x k i hpos hk hi, h, rotationMovesEveryBit y k i hpos hk hi]

/-- States with the same raw output agree in `S[1]` (41_core_transition.md R96). -/
theorem s1_eq_of_out_eq {g g' : GenState} (h : g.out = g'.out) : g.s1 = g'.s1 :=
  mul64_injective (c := 5) (by decide)
    (rotl64_injective (k := 7) (by decide) (by decide) (mul64_injective (c := 9) (by decide) h))

/-! ### R81, R83: the mixing function -/

/-- Settles O11: the number of each primitive's result, in the order of the mixing. -/
theorem smixMixesInFiveSteps : Obligations.SmixMixesInFiveSteps := by
  refine ⟨by decide, fun a => ⟨_, _, rfl, rfl, ?_⟩⟩
  simp only [smix, toNat_xor64, toNat_shr64, toNat_mul64]
  rfl

theorem smix_injective : Function.Injective smix :=
  (xor64_shr64_injective (k := 31) (by decide)).comp <|
    (mul64_injective (c := mix2) (by decide)).comp <|
    (xor64_shr64_injective (k := 27) (by decide)).comp <|
    (mul64_injective (c := mix1) (by decide)).comp <|
    xor64_shr64_injective (k := 30) (by decide)

@[simp] theorem smix_zero : smix 0 = 0 := by decide

@[simp] theorem smix_eq_zero_iff {a : Word} : smix a = 0 ↔ a = 0 :=
  smix_injective.eq_iff' smix_zero

/-- Settles O13: the five steps are injective, and the 64-bit values are finitely many. -/
theorem smixIsABijectionFixingZero : Obligations.SmixIsABijectionFixingZero :=
  ⟨Finite.injective_iff_bijective.mp smix_injective, smix_zero, fun _ => smix_eq_zero_iff,
    fun _ _ => smix_injective.ne⟩

/-! ### R82: the closed form of the four words -/

/-- `(i + 1)·GAMMA`, what the loop of R80 has added to the seed when it mixes word `i`. -/
def gammaMultiple (i : Fin 4) : Word := BitVec.ofNat 64 (i.val + 1) * gamma

theorem expandSeed_eq (seed : Word) :
    expandSeed seed = ⟨smix (seed + gammaMultiple 0), smix (seed + gammaMultiple 1),
      smix (seed + gammaMultiple 2), smix (seed + gammaMultiple 3)⟩ := by
  have h₁ : gammaMultiple 0 = gamma := by decide
  have h₂ : gammaMultiple 1 = gamma + gamma := by decide
  have h₃ : gammaMultiple 2 = gamma + (gamma + gamma) := by decide
  have h₄ : gammaMultiple 3 = gamma + (gamma + (gamma + gamma)) := by decide
  simp only [expandSeed, add64, BitVec.add_assoc, h₁, h₂, h₃, h₄]

theorem expandSeed_get (seed : Word) (i : Fin 4) : (expandSeed seed).get i = smix (seed + gammaMultiple i) := by
  rw [expandSeed_eq]
  fin_cases i <;> rfl

/-- Settles O12: the opcode's row of the decoder, and the closed form at the four multiples of `GAMMA`. -/
theorem initFillsTheFourWords : Obligations.InitFillsTheFourWords := by
  refine ⟨fun cw h => decode_of_opcode h, by decide, fun seed s => ?_⟩
  calc exec (.init seed) s
    _ = .next { s with S := expandSeed seed, rsp := some ⟨false, 0⟩ } := respond_eq 0 _
    _ = _ := by rw [expandSeed_eq]; rfl

/-! ### R84: the words that are zero -/

theorem expandSeed_get_eq_zero_iff (seed : Word) (i : Fin 4) :
    (expandSeed seed).get i = 0 ↔ seed = -gammaMultiple i := by
  rw [expandSeed_get, smix_eq_zero_iff]
  exact add_eq_zero_iff_eq_neg

theorem gammaMultiple_injective : Function.Injective gammaMultiple := by decide

theorem expandSeed_zero_word_unique {seed : Word} {i j : Fin 4} (hi : (expandSeed seed).get i = 0)
    (hj : (expandSeed seed).get j = 0) : i = j := by
  rw [expandSeed_get_eq_zero_iff] at hi hj
  exact gammaMultiple_injective (neg_injective (hi.symm.trans hj))

theorem expandSeed_ne_zero (seed : Word) : expandSeed seed ≠ GenState.zero := by
  intro h
  have h₀ : (expandSeed seed).get 0 = 0 := by rw [h]; rfl
  have h₁ : (expandSeed seed).get 1 = 0 := by rw [h]; rfl
  exact absurd (expandSeed_zero_word_unique h₀ h₁) (by decide)

/-- Settles O14: word `i` is zero at the seed `-(i + 1)·GAMMA` only, and these four seeds differ. -/
theorem initNeverProducesTheZeroState : Obligations.InitNeverProducesTheZeroState :=
  ⟨by decide, fun seed => ⟨expandSeed_ne_zero seed, fun _ _ => expandSeed_zero_word_unique,
    expandSeed_get_eq_zero_iff seed 0, expandSeed_get_eq_zero_iff seed 1,
    expandSeed_get_eq_zero_iff seed 2, expandSeed_get_eq_zero_iff seed 3⟩⟩

/-! ### R86: different seeds -/

/-- Each word by itself determines the seed. -/
theorem expandSeed_get_injective (i : Fin 4) : Function.Injective fun seed => (expandSeed seed).get i := by
  intro a b h
  simp only [expandSeed_get] at h
  exact add_right_cancel (smix_injective h)

/-- Settles O15: `S[0]` determines the seed, and so does `S[1]`, which the raw output determines. -/
theorem differentSeedsGiveDifferentStreams : Obligations.DifferentSeedsGiveDifferentStreams := by
  intro a b hab
  have hs0 : (expandSeed a).s0 ≠ (expandSeed b).s0 := (expandSeed_get_injective 0).ne hab
  have hs1 : (expandSeed a).s1 ≠ (expandSeed b).s1 := (expandSeed_get_injective 1).ne hab
  exact ⟨hs0, fun h => hs0 (congrArg GenState.s0 h), fun h => hs1 (s1_eq_of_out_eq h)⟩

end Sys2Proof.Machine
end

-- Proofs of the statements about the Core Transition of 41_core_transition.md
section
/-! PROOF. The closed form of `step` and the two maps its inverse undoes, a rotation and the exclusive or with a shift;
the output function as three invertible steps (41_core_transition.md R90 to R96). -/

namespace Sys2Proof.Machine

/-! ### Exclusive or, shifts and rotations -/

theorem xor_xor_cancel_left (a b : Word) : a ^^^ (a ^^^ b) = b := by
  rw [← BitVec.xor_assoc, BitVec.xor_self, BitVec.zero_xor]

theorem xor_left_comm (a b c : Word) : a ^^^ (b ^^^ c) = b ^^^ (a ^^^ c) := by
  ac_rfl

theorem xor_eq_left_iff {a b : Word} : a ^^^ b = a ↔ b = 0 := by
  calc a ^^^ b = a
    _ ↔ a ^^^ b = a ^^^ 0 := by rw [show a ^^^ 0 = a from BitVec.xor_zero]
    _ ↔ b = 0 := BitVec.xor_right_inj a

theorem rotl64_xor (x y : Word) {k : Nat} (hk : k < 64) :
    rotl64 (x ^^^ y) k = rotl64 x k ^^^ rotl64 y k := by
  apply BitVec.eq_of_getLsbD_eq
  intro i hi
  simp only [BitVec.getLsbD_xor, getLsbD_rotl64 _ hk hi]
  split <;> rfl

/-- Two rotations that add up to the whole width move every bit back to its place. -/
theorem rotl64_rotl64_cancel (x : Word) {j k : Nat} (hj : 1 ≤ j) (hk : 1 ≤ k) (hjk : j + k = 64) :
    rotl64 (rotl64 x j) k = x := by
  apply BitVec.eq_of_getLsbD_eq
  intro i hi
  have hback : ((i + j) % 64 + k) % 64 = i := by omega
  calc (rotl64 (rotl64 x j) k).getLsbD i
    _ = (rotl64 (rotl64 x j) k).getLsbD (((i + j) % 64 + k) % 64) := by rw [hback]
    _ = (rotl64 x j).getLsbD ((i + j) % 64) :=
      rotationMovesEveryBit _ k _ hk (by omega) (Nat.mod_lt _ (by decide))
    _ = x.getLsbD i := rotationMovesEveryBit x j i hj (by omega) hi

/-- What R94 calls `w`, a function of the old `S[1]`. -/
def xorShift17 (x : Word) : Word := x ^^^ x <<< 17

/-- How R94 recovers the old `S[1]` from `w`. -/
def unxorShift17 (w : Word) : Word := w ^^^ w <<< 17 ^^^ w <<< 34 ^^^ w <<< 51

/-- The shifted copies cancel in pairs up to the last, which leaves the word: 4 · 17 ≥ 64. -/
theorem unxorShift17_xorShift17 (x : Word) : unxorShift17 (xorShift17 x) = x := by
  have hdrop : x <<< 68 = 0 := BitVec.shiftLeft_eq_zero (by decide)
  simp only [unxorShift17, xorShift17, BitVec.shiftLeft_xor_distrib, ← BitVec.shiftLeft_add, Nat.reduceAdd, hdrop]
  simp only [BitVec.xor_assoc, xor_xor_cancel_left]
  exact BitVec.xor_zero

theorem xorShift17_unxorShift17 (w : Word) : xorShift17 (unxorShift17 w) = w := by
  have hdrop : w <<< 68 = 0 := BitVec.shiftLeft_eq_zero (by decide)
  simp only [unxorShift17, xorShift17, BitVec.shiftLeft_xor_distrib, ← BitVec.shiftLeft_add, Nat.reduceAdd, hdrop]
  simp only [BitVec.xor_assoc, xor_left_comm, xor_xor_cancel_left]
  exact BitVec.xor_zero

/-! ### R93, R94: the step and its inverse -/

/-- The closed form of R93. -/
theorem step_eq (g : GenState) : g.step =
    ⟨g.s0 ^^^ g.s1 ^^^ g.s3, g.s0 ^^^ g.s1 ^^^ g.s2, g.s0 ^^^ g.s2 ^^^ g.s1 <<< 17, rotl64 (g.s1 ^^^ g.s3) 45⟩ := by
  simp only [GenState.step, xor64, shl64, BitVec.xor_comm, xor_left_comm]

section Words

variable (g : GenState)

theorem step_s0 : g.step.s0 = g.s0 ^^^ g.s1 ^^^ g.s3 := by rw [step_eq]
theorem step_s1 : g.step.s1 = g.s0 ^^^ g.s1 ^^^ g.s2 := by rw [step_eq]
theorem step_s2 : g.step.s2 = g.s0 ^^^ g.s2 ^^^ g.s1 <<< 17 := by rw [step_eq]
theorem step_s3 : g.step.s3 = rotl64 (g.s1 ^^^ g.s3) 45 := by rw [step_eq]

end Words

/-- Every word of the closed form is an exclusive or of shifted or rotated words. -/
theorem step_xor (a b : GenState) : (a.xor b).step = a.step.xor b.step := by
  simp only [step_eq, GenState.xor, xor64, BitVec.shiftLeft_xor_distrib, rotl64_xor _ _ (show 45 < 64 by decide),
    BitVec.xor_comm, BitVec.xor_assoc, xor_left_comm]

theorem step_zero : GenState.zero.step = GenState.zero := by decide

/-- R94 with its two intermediate values: `a` from `S[3]`, and the old `S[1]` from `w`. -/
theorem unstep_eq {g : GenState} {a x : Word} (ha : rotl64 g.s3 19 = a) (hx : unxorShift17 (g.s1 ^^^ g.s2) = x) :
    g.unstep = ⟨g.s0 ^^^ a, x, g.s1 ^^^ x ^^^ (g.s0 ^^^ a), a ^^^ x⟩ := by
  rw [← ha, ← hx]
  rfl

theorem unstep_step (g : GenState) : g.step.unstep = g := by
  have ha : rotl64 g.step.s3 19 = g.s1 ^^^ g.s3 := by
    rw [step_s3, rotl64_rotl64_cancel _ (by decide) (by decide) (by decide)]
  have hw : g.step.s1 ^^^ g.step.s2 = xorShift17 g.s1 := by
    simp only [step_s1, step_s2, xorShift17, BitVec.xor_assoc, xor_left_comm, xor_xor_cancel_left]
  have hx : unxorShift17 (g.step.s1 ^^^ g.step.s2) = g.s1 := by rw [hw, unxorShift17_xorShift17]
  rw [unstep_eq ha hx, step_eq]
  simp only [BitVec.xor_assoc, BitVec.xor_comm, xor_left_comm, xor_xor_cancel_left, BitVec.xor_self, BitVec.xor_zero]

theorem step_unstep (g : GenState) : g.unstep.step = g := by
  obtain ⟨a, ha⟩ : ∃ a, rotl64 g.s3 19 = a := ⟨_, rfl⟩
  obtain ⟨x, hx⟩ : ∃ x, unxorShift17 (g.s1 ^^^ g.s2) = x := ⟨_, rfl⟩
  have hshift : x <<< 17 = x ^^^ (g.s1 ^^^ g.s2) := by
    rw [← xorShift17_unxorShift17 (g.s1 ^^^ g.s2), hx, xorShift17, xor_xor_cancel_left]
  have hs3 : rotl64 a 45 = g.s3 := by
    rw [← ha, rotl64_rotl64_cancel _ (by decide) (by decide) (by decide)]
  rw [unstep_eq ha hx, step_eq]
  simp only [hshift, BitVec.xor_assoc, BitVec.xor_comm, xor_left_comm, xor_xor_cancel_left, BitVec.xor_self,
    BitVec.xor_zero, hs3]

theorem step_bijective : Function.Bijective GenState.step :=
  Function.bijective_iff_has_inverse.mpr ⟨GenState.unstep, unstep_step, step_unstep⟩

/-- Settles O17: linear by the closed form, and `unstep` a two-sided inverse. -/
theorem stepIsLinearAndInvertible : Obligations.StepIsLinearAndInvertible :=
  ⟨step_xor, step_zero, unstep_step, step_unstep, step_bijective⟩

/-! ### R95: the zero state -/

theorem step_s1_eq_s1_iff {g : GenState} : g.step.s1 = g.s1 ↔ g.s0 ^^^ g.s2 = 0 := by
  rw [step_s1, BitVec.xor_assoc, xor_left_comm, xor_eq_left_iff]

theorem step_s0_eq_s0_iff {g : GenState} : g.step.s0 = g.s0 ↔ g.s1 ^^^ g.s3 = 0 := by
  rw [step_s0, BitVec.xor_assoc, xor_eq_left_iff]

/-- With `S[0]` unchanged the word to rotate is 0, so `S[3]` is, and with it `S[1]`; with `S[1]` unchanged too, only the
shifted `S[1]`, which is 0, is left in `S[2]`. -/
theorem eq_zero_of_step_eq {g : GenState} (h : g.step = g) : g = GenState.zero := by
  have h13 : g.s1 ^^^ g.s3 = 0 := step_s0_eq_s0_iff.mp (congrArg GenState.s0 h)
  have h02 : g.s0 ^^^ g.s2 = 0 := step_s1_eq_s1_iff.mp (congrArg GenState.s1 h)
  have hs3 : g.s3 = 0 :=
    calc g.s3
      _ = g.step.s3 := by rw [h]
      _ = rotl64 (g.s1 ^^^ g.s3) 45 := step_s3 g
      _ = 0 := by rw [h13]; rfl
  have hs1 : g.s1 = 0 := (BitVec.xor_eq_zero_iff.mp h13).trans hs3
  have hs2 : g.s2 = 0 :=
    calc g.s2
      _ = g.step.s2 := by rw [h]
      _ = g.s0 ^^^ g.s2 ^^^ g.s1 <<< 17 := step_s2 g
      _ = 0 := by rw [h02, hs1]; rfl
  have hs0 : g.s0 = 0 := (BitVec.xor_eq_zero_iff.mp h02).trans hs2
  exact congr (congr (congr (congrArg GenState.mk hs0) hs1) hs2) hs3

theorem step_eq_zero_iff {g : GenState} : g.step = GenState.zero ↔ g = GenState.zero :=
  step_bijective.injective.eq_iff' step_zero

/-- Settles O18: the fixed point by the closed form, the predecessor of zero by injectivity. -/
theorem zeroIsTheOnlyFixedPoint : Obligations.ZeroIsTheOnlyFixedPoint :=
  ⟨by decide, step_zero, fun _ => eq_zero_of_step_eq, fun _ => mt step_eq_zero_iff.mp⟩

/-! ### R96: the output -/

theorem mul64_mul64_cancel {a b : Word} (x : Word) (h : a * b = 1) : mul64 (mul64 x a) b = x := by
  rw [mul64, mul64, BitVec.mul_assoc, h]
  exact mul_one x

theorem unout_out (g : GenState) : unout g.out = g.s1 := by
  rw [unout, GenState.out, mul64_mul64_cancel _ (by decide), rotl64_rotl64_cancel _ (by decide) (by decide) (by decide),
    mul64_mul64_cancel _ (by decide)]

theorem out_of_s1_eq_unout {g : GenState} {v : Word} (h : g.s1 = unout v) : g.out = v := by
  rw [GenState.out, h, unout, mul64_mul64_cancel _ (by decide),
    rotl64_rotl64_cancel _ (by decide) (by decide) (by decide), mul64_mul64_cancel _ (by decide)]

theorem out_eq_out_iff {g h : GenState} : g.out = h.out ↔ g.s1 = h.s1 :=
  ⟨s1_eq_of_out_eq, fun e => by rw [GenState.out, e, GenState.out]⟩

theorem out_zero : GenState.zero.out = 0 := by decide

theorem out_eq_zero_iff {g : GenState} : g.out = 0 ↔ g.s1 = 0 := by
  rw [← out_zero, out_eq_out_iff]
  rfl

/-- Settles O19: each question about outputs is one about `S[1]`, which `unout` recovers. -/
theorem outputRevealsTheSecondWord : Obligations.OutputRevealsTheSecondWord :=
  ⟨fun _ _ => out_eq_out_iff, unout_out, fun v => ⟨⟨0, unout v, 0, 0⟩, out_of_s1_eq_unout rfl⟩,
    fun _ => out_eq_zero_iff, fun _ => out_eq_out_iff.trans step_s1_eq_s1_iff⟩

/-! ### R90: `NEXT` -/

/-- Settles O16: the opcode's row of the decoder, and the closed forms of the output and of the step. -/
theorem nextRespondsThenSteps : Obligations.NextRespondsThenSteps := by
  refine ⟨fun cw h => decode_of_opcode h, by decide, by decide, fun s => ?_⟩
  calc exec .next s
    _ = .next { s with S := s.S.step, rsp := some ⟨false, s.S.out⟩ } := respond_eq _ _
    _ = _ := by
      rw [step_eq, GenState.out, rotl64_eq_rotateLeft _ (by decide), rotl64_eq_rotateLeft _ (by decide)]
      rfl

end Sys2Proof.Machine
end

-- Proofs of the statements about `DBL` of 42_formatters.md
section
/-! PROOF. The pattern of `fmt_dbl` as one number, from which its fields, its value and its order are read
(42_formatters.md R105 to R108). -/

namespace Sys2Proof.Machine

/-! ### R106: the fields of a pattern, as numbers -/

theorem dblSign_eq_decide (b : Word) : dblSign b = decide (2 ^ 63 ≤ b.toNat) :=
  BitVec.getLsbD_last b

theorem dblExponent_eq (b : Word) : dblExponent b = b.toNat / 2 ^ 52 % 2 ^ 11 := by
  rw [dblExponent, BitVec.extractLsb'_toNat, Nat.shiftRight_eq_div_pow]

theorem dblFraction_eq (b : Word) : dblFraction b = b.toNat % 2 ^ 52 := by
  rw [dblFraction, BitVec.extractLsb'_toNat, Nat.shiftRight_zero]

/-! ### R107: the leading one -/

theorem toNat_ne_zero {x : Word} (hx : x ≠ 0) : x.toNat ≠ 0 :=
  fun h => hx (BitVec.eq_of_toNat_eq h)

/-- The place of the leading one is the library's binary logarithm. -/
theorem msb_eq_log2 (x : Word) : msb x = Nat.log2 x.toNat := by
  by_cases hx : x = 0
  · rw [hx]
    decide
  · refine ((Nat.log2_eq_iff (toNat_ne_zero hx)).mpr ⟨Nat.ge_two_pow_of_testBit (getLsbD_msb hx), ?_⟩).symm
    exact Nat.lt_pow_two_of_testBit _ fun i hi => getLsbD_eq_false_of_msb_lt x hi

theorem log2_le_log2 {m n : Nat} (h : m ≤ n) : Nat.log2 m ≤ Nat.log2 n := by
  rw [Nat.log2_eq_log_two, Nat.log2_eq_log_two]
  exact Nat.log_mono_right h

theorem log2_toNat_le (x : Word) : Nat.log2 x.toNat ≤ 63 := msb_eq_log2 x ▸ msb_le x

/-- `n` with all but its 53 leading bits cleared. -/
def leading53 (n : Nat) : Nat := n / 2 ^ (Nat.log2 n - 52) * 2 ^ (Nat.log2 n - 52)

/-- The 53 leading bits of a raw value, as a number with the leading one at bit 52. -/
def significand (x : Word) : Nat := x.toNat * 2 ^ (63 - Nat.log2 x.toNat) / 2 ^ 11

/-- Shifted left until its leading one is bit 63, a value other than 0 is at least 2^63 and has lost no bit. -/
theorem normalized_bounds {x : Word} (hx : x ≠ 0) :
    2 ^ 63 ≤ x.toNat * 2 ^ (63 - Nat.log2 x.toNat) ∧ x.toNat * 2 ^ (63 - Nat.log2 x.toNat) < 2 ^ 64 := by
  have hp := log2_toNat_le x
  constructor
  · calc 2 ^ 63
      _ = 2 ^ Nat.log2 x.toNat * 2 ^ (63 - Nat.log2 x.toNat) := by rw [← pow_add]; congr 1; omega
      _ ≤ _ := Nat.mul_le_mul_right _ (Nat.log2_self_le (toNat_ne_zero hx))
  · calc x.toNat * 2 ^ (63 - Nat.log2 x.toNat)
      _ < 2 ^ (Nat.log2 x.toNat + 1) * 2 ^ (63 - Nat.log2 x.toNat) :=
        Nat.mul_lt_mul_of_pos_right Nat.lt_log2_self (by positivity)
      _ = 2 ^ 64 := by rw [← pow_add]; congr 1; omega

theorem significand_bounds {x : Word} (hx : x ≠ 0) : 2 ^ 52 ≤ significand x ∧ significand x < 2 ^ 53 := by
  obtain ⟨hlow, hhigh⟩ := normalized_bounds hx
  rw [significand]
  omega

/-! ### R107: the pattern -/

@[simp] theorem fmtDbl_zero : fmtDbl 0 = 0 := rfl

/-- The three fields of a pattern as one number. -/
theorem toNat_append_fields (e : BitVec 11) (f : BitVec 52) :
    ((0 : BitVec 1) ++ e ++ f).toNat = e.toNat * 2 ^ 52 + f.toNat := by
  rw [BitVec.toNat_append, BitVec.toNat_append, ← Nat.shiftLeft_add_eq_or_of_lt f.isLt, Nat.shiftLeft_eq]
  simp

theorem toNat_fmtDbl {x : Word} (hx : x ≠ 0) :
    (fmtDbl x).toNat = (959 + Nat.log2 x.toNat) * 2 ^ 52 + significand x % 2 ^ 52 := by
  have hp := log2_toNat_le x
  obtain ⟨-, hfits⟩ := normalized_bounds hx
  have hexp : (BitVec.ofNat 11 (959 + msb x)).toNat = 959 + Nat.log2 x.toNat := by
    rw [msb_eq_log2, BitVec.toNat_ofNat, Nat.mod_eq_of_lt (by omega)]
  have hfrac : ((shl64 x (63 - msb x)).extractLsb' 11 52).toNat = significand x % 2 ^ 52 := by
    rw [msb_eq_log2, BitVec.extractLsb'_toNat, toNat_shl64, Nat.mod_eq_of_lt hfits, Nat.shiftRight_eq_div_pow,
      significand]
  calc (fmtDbl x).toNat
    _ = (BitVec.ofNat 11 (959 + msb x)).toNat * 2 ^ 52 + ((shl64 x (63 - msb x)).extractLsb' 11 52).toNat := by
      rw [fmtDbl, if_neg hx]
      exact toNat_append_fields _ _
    _ = _ := by rw [hexp, hfrac]

/-- The leading one carries into the exponent, so the patterns count up through the significands of one exponent and on
to the next. -/
theorem toNat_fmtDbl_eq_add_significand {x : Word} (hx : x ≠ 0) :
    (fmtDbl x).toNat = (958 + Nat.log2 x.toNat) * 2 ^ 52 + significand x := by
  obtain ⟨hlow, hhigh⟩ := significand_bounds hx
  rw [toNat_fmtDbl hx]
  omega

theorem dblExponent_fmtDbl {x : Word} (hx : x ≠ 0) : dblExponent (fmtDbl x) = 959 + Nat.log2 x.toNat := by
  have hp := log2_toNat_le x
  rw [dblExponent_eq, toNat_fmtDbl hx]
  omega

theorem dblFraction_fmtDbl {x : Word} (hx : x ≠ 0) : dblFraction (fmtDbl x) + 2 ^ 52 = significand x := by
  obtain ⟨hlow, hhigh⟩ := significand_bounds hx
  rw [dblFraction_eq, toNat_fmtDbl hx]
  omega

theorem dblSign_fmtDbl (x : Word) : dblSign (fmtDbl x) = false := by
  rw [dblSign_eq_decide, decide_eq_false_iff_not]
  by_cases hx : x = 0
  · rw [hx]
    decide
  · have hp := log2_toNat_le x
    rw [toNat_fmtDbl hx]
    omega

/-! ### R107: the value -/

/-- Scaled back, the significand is the raw value with its lower bits cleared. -/
theorem significand_mul_zpow (x : Word) :
    (significand x : ℚ) * 2 ^ ((Nat.log2 x.toNat : Int) - 52) = leading53 x.toNat := by
  have hp := log2_toNat_le x
  rw [significand, leading53]
  generalize Nat.log2 x.toNat = p at hp ⊢
  by_cases hlarge : 52 ≤ p
  · have hsplit : 2 ^ 11 = 2 ^ (p - 52) * 2 ^ (63 - p) := by rw [← pow_add]; congr 1; omega
    have hscale : ((p : Int) - 52) = ((p - 52 : Nat) : Int) := by omega
    rw [hsplit, Nat.mul_div_mul_right _ _ (by positivity), hscale, zpow_natCast]
    push_cast
    rfl
  · have hsplit : 2 ^ (63 - p) = 2 ^ (52 - p) * 2 ^ 11 := by rw [← pow_add]; congr 1; omega
    have hscale : ((p : Int) - 52) = -((52 - p : Nat) : Int) := by omega
    have hzero : p - 52 = 0 := by omega
    rw [hsplit, ← mul_assoc, Nat.mul_div_cancel _ (by positivity), hscale, zpow_neg, zpow_natCast, hzero,
      pow_zero, Nat.div_one, Nat.mul_one]
    push_cast
    field_simp

/-- The value of a raw value's pattern: its 53 leading bits divided by 2^64. -/
def dblRational (x : Word) : ℚ := (leading53 x.toNat : ℚ) / 2 ^ 64

theorem dblValue_fmtDbl (x : Word) : dblValue (fmtDbl x) = some (dblRational x) := by
  by_cases hx : x = 0
  · have hexp : dblExponent 0 = 0 := by decide
    have hfrac : dblFraction 0 = 0 := by decide
    rw [hx, fmtDbl_zero, dblValue, if_pos hexp, if_pos hfrac]
    simp [dblRational, leading53]
  · have hp := log2_toNat_le x
    have hexp := dblExponent_fmtDbl hx
    have hfrac : (dblFraction (fmtDbl x) : ℚ) + 2 ^ 52 = significand x := by exact_mod_cast dblFraction_fmtDbl hx
    have hscale : (2 : ℚ) ^ (((959 + Nat.log2 x.toNat : Nat) : Int) - 1023) =
        2 ^ ((Nat.log2 x.toNat : Int) - 52) * (2 ^ 52 / 2 ^ 64) := by
      have hsum : ((959 + Nat.log2 x.toNat : Nat) : Int) - 1023 = ((Nat.log2 x.toNat : Int) - 52) + -12 := by omega
      rw [hsum, zpow_add₀ two_ne_zero]
      norm_num
    rw [dblValue, if_neg (by omega), if_neg (by omega), dblSign_fmtDbl, hexp, hscale, dblRational,
      ← significand_mul_zpow, ← hfrac]
    congr 1
    simp only [Bool.false_eq_true, if_false]
    ring

/-- Settles O22: the opcode's row of the decoder, the number of the pattern, and its value. -/
theorem dblScalesTheDrawnValue : Obligations.DblScalesTheDrawnValue :=
  ⟨fun _ h => decode_of_opcode h, fun s => respond_eq _ (drawn s), fmtDbl_zero, fun _ => toNat_fmtDbl,
    dblValue_fmtDbl⟩

/-! ### R108: clearing the lower bits -/

theorem leading53_le (n : Nat) : leading53 n ≤ n := Nat.div_mul_le_self n _

/-- The leading one is not cleared. -/
theorem two_pow_log2_le_leading53 {n : Nat} (hn : n ≠ 0) : 2 ^ Nat.log2 n ≤ leading53 n :=
  calc 2 ^ Nat.log2 n
    _ = 2 ^ Nat.log2 n / 2 ^ (Nat.log2 n - 52) * 2 ^ (Nat.log2 n - 52) :=
      (Nat.div_mul_cancel (pow_dvd_pow 2 (by omega))).symm
    _ ≤ leading53 n := Nat.mul_le_mul_right _ (Nat.div_le_div_right (Nat.log2_self_le hn))

theorem leading53_eq_zero_iff {n : Nat} : leading53 n = 0 ↔ n = 0 := by
  refine ⟨fun h => ?_, fun h => by rw [h]; rfl⟩
  by_contra hn
  have hpos : 0 < 2 ^ Nat.log2 n := by positivity
  have hle := two_pow_log2_le_leading53 hn
  omega

/-- Values with the same leading place lose the same bits; otherwise the leading ones decide. -/
theorem leading53_mono {m n : Nat} (h : m ≤ n) : leading53 m ≤ leading53 n := by
  by_cases hm : m = 0
  · rw [hm]
    exact Nat.zero_le _
  · obtain heq | hlt := (log2_le_log2 h).eq_or_lt
    · rw [leading53, leading53, heq]
      exact Nat.mul_le_mul_right _ (Nat.div_le_div_right h)
    · calc leading53 m
        _ ≤ m := leading53_le m
        _ ≤ 2 ^ (Nat.log2 m + 1) := Nat.lt_log2_self.le
        _ ≤ 2 ^ Nat.log2 n := Nat.pow_le_pow_right (by decide) hlt
        _ ≤ leading53 n := two_pow_log2_le_leading53 (by omega)

/-- The largest raw value gives `1 - 2^-53`. -/
theorem leading53_toNat_add_le (x : Word) : leading53 x.toNat + 2 ^ 11 ≤ 2 ^ 64 :=
  calc leading53 x.toNat + 2 ^ 11
    _ ≤ leading53 (2 ^ 64 - 1) + 2 ^ 11 := Nat.add_le_add_right (leading53_mono (Nat.le_sub_one_of_lt x.isLt)) _
    _ = 2 ^ 64 := by decide

/-- What is cleared lies below the last place kept. -/
theorem sub_leading53_lt (n : Nat) : (n : ℚ) - leading53 n < 2 ^ ((Nat.log2 n : Int) - 52) := by
  have hcleared : (n : ℚ) - leading53 n = (n % 2 ^ (Nat.log2 n - 52) : Nat) := by
    rw [sub_eq_iff_eq_add']
    exact_mod_cast (Nat.div_add_mod' n _).symm
  rw [hcleared]
  by_cases hlarge : 52 ≤ Nat.log2 n
  · have hscale : (Nat.log2 n : Int) - 52 = ((Nat.log2 n - 52 : Nat) : Int) := by omega
    rw [hscale, zpow_natCast]
    exact_mod_cast Nat.mod_lt n (by positivity)
  · have hzero : Nat.log2 n - 52 = 0 := by omega
    rw [hzero, pow_zero, Nat.mod_one, Nat.cast_zero]
    positivity

/-! ### R108: the order of the patterns -/

theorem fmtDbl_mono {x y : Word} (h : x ≤ y) : fmtDbl x ≤ fmtDbl y := by
  by_cases hx : x = 0
  · rw [hx]
    exact BitVec.le_def.mpr (Nat.zero_le _)
  have hxy : x.toNat ≤ y.toNat := BitVec.le_def.mp h
  have hy : y ≠ 0 := by
    rintro rfl
    exact toNat_ne_zero hx (Nat.le_zero.mp hxy)
  obtain ⟨-, hxhigh⟩ := significand_bounds hx
  obtain ⟨hylow, -⟩ := significand_bounds hy
  rw [BitVec.le_def, toNat_fmtDbl_eq_add_significand hx, toNat_fmtDbl_eq_add_significand hy]
  obtain heq | hlt := (log2_le_log2 hxy).eq_or_lt
  · have hsig : significand x ≤ significand y := by
      rw [significand, significand, heq]
      exact Nat.div_le_div_right (Nat.mul_le_mul_right _ hxy)
    omega
  · omega

/-- The 2048 raw values that agree in their 53 leading bits with the largest one, by monotonicity. -/
theorem fmtDbl_eq_max_iff {x : Word} : fmtDbl x = 0x3FEFFFFFFFFFFFFF ↔ 2 ^ 64 - 2048 ≤ x.toNat := by
  refine ⟨fun h => ?_, fun h => ?_⟩
  · have hx : x ≠ 0 := by
      rintro rfl
      exact absurd h (by decide)
    have hnat : (959 + Nat.log2 x.toNat) * 2 ^ 52 + significand x % 2 ^ 52 = 0x3FEFFFFFFFFFFFFF := by
      rw [← toNat_fmtDbl hx, h]
      rfl
    obtain ⟨hlow, hhigh⟩ := significand_bounds hx
    have hlog : Nat.log2 x.toNat = 63 := by omega
    have hsig : significand x = x.toNat * 2 ^ 0 / 2 ^ 11 := by rw [significand, hlog]
    omega
  · have hmin : (0xFFFFFFFFFFFFF800 : Word) ≤ x := BitVec.le_def.mpr h
    have hmax : x ≤ 0xFFFFFFFFFFFFFFFF := BitVec.le_def.mpr (Nat.le_sub_one_of_lt x.isLt)
    have hminval : fmtDbl 0xFFFFFFFFFFFFF800 = 0x3FEFFFFFFFFFFFFF := by decide
    have hmaxval : fmtDbl 0xFFFFFFFFFFFFFFFF = 0x3FEFFFFFFFFFFFFF := by decide
    exact BitVec.le_antisymm (hmaxval ▸ fmtDbl_mono hmax) (hminval ▸ fmtDbl_mono hmin)

/-! ### R108: the properties -/

theorem dblRational_le_max (x : Word) : dblRational x ≤ 1 - 1 / 2 ^ 53 := by
  have hle : (leading53 x.toNat : ℚ) + 2 ^ 11 ≤ 2 ^ 64 := by
    exact_mod_cast leading53_toNat_add_le x
  rw [dblRational]
  linarith

theorem dblRational_eq_zero_iff {x : Word} : dblRational x = 0 ↔ x = 0 := by
  rw [dblRational, div_eq_zero_iff, or_iff_left (by norm_num), Nat.cast_eq_zero, leading53_eq_zero_iff]
  exact (BitVec.toNat_eq (y := 0)).symm

theorem dblRational_le (x : Word) : dblRational x ≤ (x.toNat : ℚ) / 2 ^ 64 := by
  have := leading53_le x.toNat
  rw [dblRational]
  gcongr

theorem dblRational_mono {x y : Word} (h : x ≤ y) : dblRational x ≤ dblRational y := by
  have := leading53_mono (BitVec.le_def.mp h)
  rw [dblRational, dblRational]
  gcongr

/-- The truncation error is less than the weight of the last of the 53 bits. -/
theorem sub_dblRational_lt (x : Word) :
    (x.toNat : ℚ) / 2 ^ 64 - dblRational x < 2 ^ ((msb x : Int) - 52) / 2 ^ 64 := by
  have := sub_leading53_lt x.toNat
  rw [dblRational, ← sub_div, msb_eq_log2]
  gcongr

/-- That weight is largest with the leading one at bit 63. -/
theorem two_zpow_msb_le (x : Word) : (2 : ℚ) ^ ((msb x : Int) - 52) / 2 ^ 64 ≤ 1 / 2 ^ 53 := by
  have hp := msb_le x
  calc (2 : ℚ) ^ ((msb x : Int) - 52) / 2 ^ 64
    _ ≤ 2 ^ (11 : Int) / 2 ^ 64 := by gcongr <;> [norm_num; omega]
    _ = 1 / 2 ^ 53 := by norm_num

/-- Settles O23, property by property. -/
theorem doublesLieInTheUnitInterval : Obligations.DoublesLieInTheUnitInterval := by
  refine ⟨fun x => ⟨dblRational x, dblValue_fmtDbl x, ?nonneg, dblRational_le_max x, ?notOne,
    dblRational_eq_zero_iff, fun h => by rw [h, fmtDbl_zero], dblRational_le x,
    fun _ => ⟨sub_dblRational_lt x, two_zpow_msb_le x⟩, dblSign_fmtDbl x, fun hx => ?exponent, fmtDbl_eq_max_iff⟩,
    fun x y hxy => ⟨fmtDbl_mono hxy, fun v w hv hw => ?mono⟩⟩
  case nonneg => exact div_nonneg (Nat.cast_nonneg _) (by norm_num)
  case notOne => exact ((dblRational_le_max x).trans_lt (by norm_num)).ne
  case exponent =>
    have hp := log2_toNat_le x
    rw [dblExponent_fmtDbl hx]
    omega
  case mono =>
    rw [dblValue_fmtDbl, Option.some_inj] at hv hw
    rw [← hv, ← hw]
    exact dblRational_mono hxy

end Sys2Proof.Machine
end

-- Proofs of the statements about `INT` of 42_formatters.md
section
/-! PROOF. The pieces of `fmt_int` as exact integers: the width, the remainder and the sum, which wraps or does not
(42_formatters.md R110 to R115). -/

namespace Sys2Proof.Machine

/-! ### R111: the pieces of `fmt_int` -/

theorem toInt_bounds (x : Half) : -2 ^ 31 ≤ x.toInt ∧ x.toInt < 2 ^ 31 := ⟨x.le_toInt, x.toInt_lt⟩

/-- A difference of two 32-bit signed numbers fits 32 unsigned bits. -/
theorem toInt_sub_toInt_natAbs_le (frm upto : Half) : (upto.toInt - frm.toInt).natAbs ≤ 2 ^ 32 - 1 := by
  have hfrm := toInt_bounds frm
  have hupto := toInt_bounds upto
  omega

/-- The exact difference is held without loss. -/
@[simp] theorem toNat_intWidth (frm upto : Half) :
    (intWidth frm upto).toNat = (upto.toInt - frm.toInt).natAbs := by
  have hle := toInt_sub_toInt_natAbs_le frm upto
  rw [intWidth, signed, signed, BitVec.toNat_ofNat, Nat.mod_eq_of_lt (by omega)]

@[simp] theorem toNat_zext64 (d : Half) : (zext64 d).toNat = d.toNat :=
  BitVec.toNat_setWidth_of_le (by decide)

@[simp] theorem toNat_umod (a b : Word) : (umod a b).toNat = a.toNat % b.toNat :=
  BitVec.toNat_umod

theorem sext64_eq_ofInt (x : Half) : sext64 x = BitVec.ofInt 64 x.toInt := rfl

/-- The remainder that `fmt_int` adds to `from`, as a number. -/
def intRemainder (frm upto : Half) (v : Word) : Nat := v.toNat % (upto.toInt - frm.toInt).natAbs

theorem intRemainder_lt {frm upto : Half} (h : frm ≠ upto) (v : Word) :
    intRemainder frm upto v < (upto.toInt - frm.toInt).natAbs := by
  have hne : frm.toInt ≠ upto.toInt := mt BitVec.toInt_inj.mp h
  exact Nat.mod_lt _ (by omega)

/-- The sum of R111 as exact integers, modulo 2^32. -/
theorem fmtInt_eq_ofInt (frm upto : Half) (v : Word) :
    fmtInt frm upto v = BitVec.ofInt 32 (frm.toInt + intRemainder frm upto v) := by
  have hr : (umod v (zext64 (intWidth frm upto))).toNat = intRemainder frm upto v := by
    rw [toNat_umod, toNat_zext64, toNat_intWidth, intRemainder]
  rw [BitVec.ofInt_add, BitVec.ofInt_toInt, BitVec.ofInt_natCast, ← hr, BitVec.ofNat_toNat, fmtInt]

theorem toInt_fmtInt (frm upto : Half) (v : Word) :
    (fmtInt frm upto v).toInt = Int.bmod (frm.toInt + intRemainder frm upto v) (2 ^ 32) := by
  rw [fmtInt_eq_ofInt, BitVec.toInt_ofInt]

/-- A sum of at most 2^31 - 1 does not wrap (R113, R114). -/
theorem toInt_fmtInt_of_le {frm upto : Half} {v : Word}
    (h : frm.toInt + intRemainder frm upto v ≤ 2 ^ 31 - 1) :
    (fmtInt frm upto v).toInt = frm.toInt + intRemainder frm upto v := by
  have hfrm := toInt_bounds frm
  rw [toInt_fmtInt]
  exact Int.bmod_eq_of_le (by omega) (by omega)

/-- A larger sum continues at -2^31: it wraps exactly once (R114). -/
theorem toInt_fmtInt_of_lt {frm upto : Half} (hne : frm ≠ upto) {v : Word}
    (h : 2 ^ 31 - 1 < frm.toInt + intRemainder frm upto v) :
    (fmtInt frm upto v).toInt = frm.toInt + intRemainder frm upto v - 2 ^ 32 := by
  have hfrm := toInt_bounds frm
  have hr := intRemainder_lt hne v
  have hwidth := toInt_sub_toInt_natAbs_le frm upto
  rw [toInt_fmtInt, ← Int.sub_bmod_right]
  exact Int.bmod_eq_of_le (by omega) (by omega)

/-! ### R110, R112: the command -/

/-- Equal bounds are answered before any draw. -/
theorem exec_int_self (x : Half) (s : State) :
    exec (.int x x) s = .next { s with rsp := some ⟨false, sext64 x⟩ } :=
  if_pos rfl

/-- Different bounds cost one draw. -/
theorem exec_int_of_ne {frm upto : Half} (h : frm ≠ upto) (s : State) :
    exec (.int frm upto) s =
      .next { s with S := s.S.step, rsp := some ⟨false, sext64 (fmtInt frm upto s.S.out)⟩ } :=
  if_neg h

/-- Settles O24: the opcode's row of the decoder, and the two ways `INT` completes. -/
theorem intRespondsFromPlusRemainder : Obligations.IntRespondsFromPlusRemainder := by
  refine ⟨fun cw h => ?_, fun frm upto s => ?_⟩
  · obtain ⟨-, -, -, hint, -⟩ := decoderIsCompleteAndUnambiguous.1 cw
    exact hint h
  · split
    · next h => rw [← h, exec_int_self, sext64]
    · next h =>
      rw [exec_int_of_ne h, sext64_eq_ofInt, toInt_fmtInt]
      rfl

/-- Settles O25: the answer to equal bounds, sign-extended. -/
theorem intWithEqualBoundsDrawsNothing : Obligations.IntWithEqualBoundsDrawsNothing :=
  exec_int_self

/-! ### R113: ascending ranges -/

theorem ne_of_toInt_lt {frm upto : Half} (hlt : frm.toInt < upto.toInt) : frm ≠ upto :=
  fun h => hlt.ne (congrArg BitVec.toInt h)

/-- The remainder is less than the width, so the sum stays below `to` and does not wrap. -/
theorem toInt_fmtInt_ascending {frm upto : Half} (hlt : frm.toInt < upto.toInt) (v : Word) :
    (fmtInt frm upto v).toInt = frm.toInt + intRemainder frm upto v ∧
      frm.toInt + intRemainder frm upto v < upto.toInt := by
  have hr := intRemainder_lt (ne_of_toInt_lt hlt) v
  have hupto := toInt_bounds upto
  exact ⟨toInt_fmtInt_of_le (by omega), by omega⟩

/-- Settles O26: the sum lies from `from` up to below `to`, where width 1 leaves `from` alone. -/
theorem intAscendingStaysInTheRange : Obligations.IntAscendingStaysInTheRange := by
  intro frm upto v hlt
  obtain ⟨heq, hbelow⟩ := toInt_fmtInt_ascending hlt v
  refine ⟨?_, by omega, by omega, fun hone s => ?_⟩
  · have hwidth : (upto.toInt - frm.toInt).natAbs = (upto.toInt - frm.toInt).toNat := by omega
    rw [heq, intRemainder, hwidth]
  · obtain ⟨heq, hbelow⟩ := toInt_fmtInt_ascending hlt s.S.out
    have hfrm : fmtInt frm upto s.S.out = frm := BitVec.toInt_inj.mp (by omega)
    rw [exec_int_of_ne (ne_of_toInt_lt hlt), hfrm]

/-! ### R115: the extreme widths -/

/-- The smallest and the largest operand of `INT`. -/
theorem toInt_extreme_operands :
    (0x80000000 : Half).toInt = -2 ^ 31 ∧ (0x7FFFFFFF : Half).toInt = 2 ^ 31 - 1 := by decide

theorem intRemainder_extreme_ascending (v : Word) :
    intRemainder 0x80000000 0x7FFFFFFF v = v.toNat % (2 ^ 32 - 1) := rfl

theorem intRemainder_extreme_descending (v : Word) :
    intRemainder 0x7FFFFFFF 0x80000000 v = v.toNat % (2 ^ 32 - 1) := rfl

/-- From the smallest to the largest operand no sum wraps. -/
theorem toInt_fmtInt_extreme_ascending (v : Word) :
    (fmtInt 0x80000000 0x7FFFFFFF v).toInt = -2 ^ 31 + ((v.toNat % (2 ^ 32 - 1) : Nat) : Int) := by
  obtain ⟨hmin, -⟩ := toInt_extreme_operands
  have hr := intRemainder_extreme_ascending v
  rw [toInt_fmtInt_of_le (by omega), hmin, hr]

/-- From the largest to the smallest operand every sum wraps, except with remainder 0. -/
theorem toInt_fmtInt_extreme_descending (v : Word) :
    (v.toNat % (2 ^ 32 - 1) = 0 → (fmtInt 0x7FFFFFFF 0x80000000 v).toInt = 2 ^ 31 - 1) ∧
    (1 ≤ v.toNat % (2 ^ 32 - 1) →
      (fmtInt 0x7FFFFFFF 0x80000000 v).toInt = -2 ^ 31 + ((v.toNat % (2 ^ 32 - 1) : Nat) : Int) - 1) := by
  obtain ⟨-, hmax⟩ := toInt_extreme_operands
  have hr := intRemainder_extreme_descending v
  refine ⟨fun h => ?_, fun h => ?_⟩
  · rw [toInt_fmtInt_of_le (by omega)]
    omega
  · rw [toInt_fmtInt_of_lt (by decide) (by omega)]
    omega

/-- Settles O28: the widths, and the sums at the two extreme pairs. -/
theorem intExtremeWidths : Obligations.IntExtremeWidths := by
  refine ⟨fun frm upto => ?_, fun n => ⟨?_, fun hn => ?_⟩,
    fun v => ⟨toInt_fmtInt_extreme_ascending v, toInt_fmtInt_extreme_descending v⟩⟩
  · have hfrm := toInt_bounds frm
    have hupto := toInt_bounds upto
    rw [toNat_intWidth]
    omega
  · rintro ⟨v, rfl⟩
    rw [toInt_fmtInt_extreme_ascending]
    omega
  · refine ⟨BitVec.ofNat 64 (n + 2 ^ 31).toNat, ?_⟩
    rw [toInt_fmtInt_extreme_ascending, BitVec.toNat_ofNat]
    omega

end Sys2Proof.Machine
end

-- Proofs of the statements about the jumps of 43_jump.md
section
/-! PROOF. `jump_with` as a polynomial in `step()`, the polynomial that annihilates `step()`, and the tables as
`x^(2^128)` and `x^(2^192)` modulo it, by repeated squaring (43_jump.md R130 to R135, 41_core_transition.md R97). -/

namespace Sys2Proof.Machine

/-! ### States under exclusive or -/

section Xor

variable (a b c d : GenState)

@[simp] theorem genState_xor_zero : a.xor GenState.zero = a := by
  obtain ⟨a0, a1, a2, a3⟩ := a
  have hzero (w : Word) : w ^^^ 0 = w := BitVec.xor_zero
  simp only [GenState.xor, GenState.zero, xor64, hzero]

theorem genState_xor_assoc : (a.xor b).xor c = a.xor (b.xor c) := by
  simp only [GenState.xor, xor64, BitVec.xor_assoc]

theorem genState_xor_comm : a.xor b = b.xor a := by
  simp only [GenState.xor, xor64, BitVec.xor_comm]

@[simp] theorem genState_zero_xor : GenState.zero.xor a = a := by
  rw [genState_xor_comm, genState_xor_zero]

theorem genState_xor_xor_xor_comm : (a.xor b).xor (c.xor d) = (a.xor c).xor (b.xor d) := by
  simp only [GenState.xor, xor64, BitVec.xor_assoc, xor_left_comm]

theorem genState_xor_eq_zero_iff {a b : GenState} : a.xor b = GenState.zero ↔ a = b := by
  obtain ⟨a0, a1, a2, a3⟩ := a
  obtain ⟨b0, b1, b2, b3⟩ := b
  have hword (v w : Word) : v ^^^ w = 0 ↔ v = w := BitVec.xor_eq_zero_iff
  simp only [GenState.xor, GenState.zero, xor64, GenState.mk.injEq, hword]

@[simp] theorem genState_xor_self : a.xor a = GenState.zero :=
  genState_xor_eq_zero_iff.mpr rfl

theorem iterate_step_xor (n : Nat) :
    GenState.step^[n] (a.xor b) = (GenState.step^[n] a).xor (GenState.step^[n] b) := by
  induction n with
  | zero => rfl
  | succ n ih => simp only [Function.iterate_succ_apply', ih, step_xor]

end Xor

/-! ### R135: polynomials in `step()`

`GenState.combine c n g` is the polynomial with the coefficients `c j`, `j < n`, in `step()`, applied to `g`. -/

section Combine

variable (c d : Nat → Bool) (m n : Nat) (g h : GenState)

/-- The start value of a fold with exclusive or can be taken out. -/
theorem foldr_xor_start (f : Nat → GenState) (l : List Nat) (a : GenState) :
    l.foldr (fun j b => (f j).xor b) a = (l.foldr (fun j b => (f j).xor b) GenState.zero).xor a := by
  induction l with
  | nil => simp
  | cons j l ih => rw [List.foldr_cons, ih, List.foldr_cons, genState_xor_assoc]

@[simp] theorem combine_zero : GenState.combine c 0 g = GenState.zero := rfl

/-- The term of highest degree split off. -/
theorem combine_succ : GenState.combine c (n + 1) g =
    (GenState.combine c n g).xor (if c n then GenState.step^[n] g else GenState.zero) := by
  rw [GenState.combine, List.range_succ, List.filter_append, List.foldr_append, foldr_xor_start]
  cases hc : c n <;> simp [GenState.combine, hc]

variable {c d n} in
/-- Only the first `n` coefficients count. -/
theorem combine_congr (hcd : ∀ j < n, c j = d j) : GenState.combine c n g = GenState.combine d n g := by
  induction n with
  | zero => rfl
  | succ n ih => rw [combine_succ, combine_succ, ih fun j hj => hcd j (by omega), hcd n (by omega)]

theorem combine_add : GenState.combine c (m + n) g =
    (GenState.combine c m g).xor (GenState.combine (fun j => c (m + j)) n (GenState.step^[m] g)) := by
  induction n with
  | zero => simp
  | succ n ih =>
    rw [← Nat.add_assoc, combine_succ, ih, combine_succ, genState_xor_assoc, ← Function.iterate_add_apply,
      Nat.add_comm n m]

theorem combine_step : GenState.combine c n g.step = (GenState.combine c n g).step := by
  induction n with
  | zero => exact step_zero.symm
  | succ n ih =>
    rw [combine_succ, combine_succ, ih, step_xor, apply_ite GenState.step, step_zero,
      ← Function.iterate_succ_apply, Function.iterate_succ_apply']

theorem combine_state_zero : GenState.combine c n GenState.zero = GenState.zero := by
  induction n with
  | zero => rfl
  | succ n ih => rw [combine_succ, ih, Function.iterate_fixed step_zero, ite_self, genState_xor_zero]

/-- The constant term split off, as in Horner's scheme. -/
theorem combine_succ' : GenState.combine c (n + 1) g =
    (if c 0 then g else GenState.zero).xor (GenState.combine (fun j => c (j + 1)) n g).step := by
  have hshift : (fun j => c (1 + j)) = fun j => c (j + 1) := funext fun j => by rw [Nat.add_comm]
  rw [Nat.add_comm n 1, combine_add, combine_succ, combine_zero, genState_zero_xor, hshift, ← combine_step]
  rfl

/-- Linear in the state. -/
theorem combine_xor : GenState.combine c n (g.xor h) = (GenState.combine c n g).xor (GenState.combine c n h) := by
  induction n with
  | zero => simp
  | succ n ih =>
    rw [combine_succ, ih, combine_succ, combine_succ, genState_xor_xor_xor_comm, iterate_step_xor]
    cases c n <;> simp

/-- Linear in the polynomial. -/
theorem combine_xor_coeff : GenState.combine (fun j => c j ^^ d j) n g =
    (GenState.combine c n g).xor (GenState.combine d n g) := by
  induction n with
  | zero => simp
  | succ n ih =>
    rw [combine_succ, ih, combine_succ, combine_succ, genState_xor_xor_xor_comm]
    cases c n <;> cases d n <;> simp

end Combine

/-! ### R134: the loop -/

/-- After `n` iterations the accumulator has gathered the first `n` terms, and the state has made `n` steps. -/
theorem foldl_jumpIteration (c : Nat → Bool) (n : Nat) (a g : GenState) :
    (List.range n).foldl (fun x j => jumpIteration (c j) x) (a, g) =
      (a.xor (GenState.combine c n g), GenState.step^[n] g) := by
  induction n with
  | zero => simp
  | succ n ih =>
    rw [List.range_succ, List.foldl_append, ih, combine_succ, ← genState_xor_assoc, Function.iterate_succ_apply']
    cases hc : c n <;> simp [jumpIteration, hc]

/-- The coefficients that a list of constants holds, 64 in each: `JumpTable.coeff` for any number of constants. -/
def coeffOf (l : List Word) (j : Nat) : Bool := (l.getD (j / 64) 0).getLsbD (j % 64)

theorem coeffOf_cons (p : Word) (l : List Word) (j : Nat) :
    coeffOf (p :: l) j = if j < 64 then p.getLsbD j else coeffOf l (j - 64) := by
  split
  · next hj => simp [coeffOf, Nat.div_eq_of_lt hj, Nat.mod_eq_of_lt hj]
  · next hj =>
    have hdiv : j / 64 = (j - 64) / 64 + 1 := by omega
    have hmod : j % 64 = (j - 64) % 64 := by omega
    rw [coeffOf, hdiv, hmod, List.getD_cons_succ, coeffOf]

theorem foldl_jumpConstant (l : List Word) (a g : GenState) :
    (l.foldl (fun x p => jumpConstant p x) (a, g)).1 =
      a.xor (GenState.combine (coeffOf l) (64 * l.length) g) := by
  induction l generalizing a g with
  | nil => simp
  | cons p l ih =>
    have hfirst : GenState.combine p.getLsbD 64 g = GenState.combine (coeffOf (p :: l)) 64 g :=
      combine_congr g fun j hj => by rw [coeffOf_cons, if_pos hj]
    have hrest : coeffOf l = fun j => coeffOf (p :: l) (64 + j) := by
      funext j
      rw [coeffOf_cons, if_neg (by omega), Nat.add_sub_cancel_left]
    rw [List.foldl_cons, jumpConstant, foldl_jumpIteration p.getLsbD, ih, genState_xor_assoc, hfirst, hrest,
      ← combine_add, List.length_cons, Nat.mul_add_one, Nat.add_comm]

/-- Settles O30: by induction over the constants, and over the iterations of each. -/
theorem jumpWithIsAPolynomialInStep : Obligations.JumpWithIsAPolynomialInStep :=
  fun P g => (foldl_jumpConstant P.words GenState.zero g).trans (genState_zero_xor _)

/-! ### Polynomials as numbers

Bit `j` of the number is the coefficient of `x^j`. -/

/-- The constant term split off: the other bits are those of the half. -/
theorem combine_testBit_succ (p n : Nat) (g : GenState) : GenState.combine p.testBit (n + 1) g =
    (if p.testBit 0 then g else GenState.zero).xor (GenState.combine (p / 2).testBit n g).step := by
  have hhalf : (p / 2).testBit = fun j => p.testBit (j + 1) := funext fun j => (Nat.testBit_succ p j).symm
  rw [hhalf, combine_succ']

/-! ### Facts about all states from few -/

/-- The low `n + 1` bits of a word are its low `n` bits and bit `n`. -/
theorem setWidth_succ_eq_xor (w : Word) {n : Nat} (hn : n < 64) :
    (w.setWidth (n + 1)).setWidth 64 =
      (w.setWidth n).setWidth 64 ^^^ if w.getLsbD n then BitVec.twoPow 64 n else 0#64 := by
  cases hbit : w.getLsbD n with
  | false =>
    rw [BitVec.setWidth_setWidth_succ_eq_setWidth_setWidth_of_getLsbD_false hbit]
    simp
  | true =>
    rw [BitVec.setWidth_setWidth_succ_eq_setWidth_setWidth_or_twoPow_of_getLsbD_true hbit]
    apply BitVec.eq_of_getLsbD_eq
    intro j _
    by_cases hj : n = j
    · simp [← hj, hn]
    · simp [BitVec.getLsbD_twoPow, hj]

/-- What holds of 0, of the single bits, and of an exclusive or if it holds of both parts, holds of every word. -/
theorem word_xor_induction {K : Word → Prop} (hzero : K 0) (hxor : ∀ v w, K v → K w → K (v ^^^ w))
    (hbit : ∀ i < 64, K (BitVec.twoPow 64 i)) (w : Word) : K w := by
  have hlow : ∀ n ≤ 64, K ((w.setWidth n).setWidth 64) := by
    intro n hn
    induction n with
    | zero => rwa [BitVec.of_length_zero (x := w.setWidth 0), BitVec.setWidth_zero]
    | succ n ih =>
      rw [setWidth_succ_eq_xor w hn]
      refine hxor _ _ (ih (by omega)) ?_
      split
      · exact hbit n hn
      · exact hzero
  simpa using hlow 64 le_rfl

/-- From the states `(0, 0, 0, w)`, `step()` and exclusive or reach every state: first those with one word in `S[0]`, then
those with the same word in `S[1]` and `S[2]`, then, as `xorShift17` is onto, those with one word in `S[2]`. -/
theorem genState_induction {K : GenState → Prop} (hxor : ∀ a b, K a → K b → K (a.xor b))
    (hstep : ∀ a, K a → K a.step) (hlast : ∀ w, K ⟨0, 0, 0, w⟩) (g : GenState) : K g := by
  have hfirst (w : Word) : K ⟨w, 0, 0, 0⟩ := by
    have heq : (GenState.step ⟨0, 0, 0, w⟩).xor ⟨0, 0, 0, rotl64 w 45⟩ = ⟨w, 0, 0, 0⟩ := by
      simp [step_eq, GenState.xor, xor64]
    exact heq ▸ hxor _ _ (hstep _ (hlast w)) (hlast _)
  have hmiddle (w : Word) : K ⟨0, w, w, 0⟩ := by
    have hrot : rotl64 0#64 45 = 0#64 := by decide
    have heq : (GenState.step ⟨w, 0, 0, 0⟩).xor ⟨w, 0, 0, 0⟩ = ⟨0, w, w, 0⟩ := by
      simp [step_eq, GenState.xor, xor64, hrot]
    exact heq ▸ hxor _ _ (hstep _ (hfirst w)) (hfirst w)
  have hthird (w : Word) : K ⟨0, 0, w, 0⟩ := by
    have heq (x : Word) : ((GenState.step ⟨0, x, x, 0⟩).xor ⟨x, 0, 0, 0⟩).xor ⟨0, 0, 0, rotl64 x 45⟩ =
        ⟨0, 0, xorShift17 x, 0⟩ := by
      simp [step_eq, GenState.xor, xor64, xorShift17]
    rw [← xorShift17_unxorShift17 w, ← heq]
    exact hxor _ _ (hxor _ _ (hstep _ (hmiddle _)) (hfirst _)) (hlast _)
  have heq : ((GenState.mk g.s0 0 0 0).xor ⟨0, g.s1, g.s1, 0⟩).xor
      ((GenState.mk 0 0 (g.s1 ^^^ g.s2) 0).xor ⟨0, 0, 0, g.s3⟩) = g := by
    simp [GenState.xor, xor64]
  exact heq ▸ hxor _ _ (hxor _ _ (hfirst _) (hmiddle _)) (hxor _ _ (hthird _) (hlast _))

/-- A polynomial that annihilates the states with a single bit, in the last word, annihilates every state. -/
theorem combine_eq_zero_of_bits {c : Nat → Bool} {n : Nat}
    (h : ∀ i < 64, GenState.combine c n ⟨0, 0, 0, BitVec.twoPow 64 i⟩ = GenState.zero) (g : GenState) :
    GenState.combine c n g = GenState.zero := by
  have hxor (a b : GenState) (ha : GenState.combine c n a = GenState.zero)
      (hb : GenState.combine c n b = GenState.zero) : GenState.combine c n (a.xor b) = GenState.zero := by
    rw [combine_xor, ha, hb, genState_xor_zero]
  have hstep (a : GenState) (ha : GenState.combine c n a = GenState.zero) :
      GenState.combine c n a.step = GenState.zero := by
    rw [combine_step, ha, step_zero]
  have hlast (w : Word) : GenState.combine c n ⟨0, 0, 0, w⟩ = GenState.zero := by
    refine word_xor_induction (K := fun w => GenState.combine c n ⟨0, 0, 0, w⟩ = GenState.zero)
      (combine_state_zero c n) (fun v w hv hw => ?_) h w
    have heq : (GenState.mk 0 0 0 v).xor ⟨0, 0, 0, w⟩ = ⟨0, 0, 0, v ^^^ w⟩ := by simp [GenState.xor, xor64]
    exact heq ▸ hxor _ _ hv hw
  exact genState_induction hxor hstep hlast g

/-! ### R97: 64 states side by side

The polynomial that annihilates `step()` is evaluated at the 64 states at once, in words of 64 lanes of 64 bits. -/

/-- Lane `i` of a wide word. -/
def lane (x : BitVec 4096) (i : Nat) : Word := x.extractLsb' (64 * i) 64

/-- The left shift in every lane: bits that leave their lane are dropped. -/
def shlLanes (x : BitVec 4096) (k : Nat) : BitVec 4096 := (x <<< k) &&& (BitVec.allOnes 64 <<< k).replicate 64

/-- The right shift in every lane. -/
def shrLanes (x : BitVec 4096) (k : Nat) : BitVec 4096 := (x >>> k) &&& (BitVec.allOnes 64 >>> k).replicate 64

theorem getLsbD_lane (x : BitVec 4096) (i : Nat) {j : Nat} (hj : j < 64) :
    (lane x i).getLsbD j = x.getLsbD (64 * i + j) := by
  simp [lane, hj]

theorem lane_xor (x y : BitVec 4096) (i : Nat) : lane (x ^^^ y) i = lane x i ^^^ lane y i :=
  BitVec.extractLsb'_xor

theorem lane_or (x y : BitVec 4096) (i : Nat) : lane (x ||| y) i = lane x i ||| lane y i :=
  BitVec.extractLsb'_or

theorem getLsbD_replicate_mask (m : Word) {i j : Nat} (hi : i < 64) (hj : j < 64) :
    (m.replicate 64).getLsbD (64 * i + j) = m.getLsbD j := by
  have hbound : 64 * i + j < 64 * 64 := by omega
  rw [BitVec.getLsbD_replicate, Nat.mul_add_mod, Nat.mod_eq_of_lt hj]
  simp [hbound]

theorem lane_shlLanes (x : BitVec 4096) (k : Nat) {i : Nat} (hi : i < 64) :
    lane (shlLanes x k) i = shl64 (lane x i) k := by
  apply BitVec.eq_of_getLsbD_eq
  intro j hj
  rw [getLsbD_lane _ _ hj, shlLanes, BitVec.getLsbD_and, getLsbD_replicate_mask _ hi hj, shl64]
  simp only [BitVec.getLsbD_shiftLeft, BitVec.getLsbD_allOnes, hj, show 64 * i + j < 4096 by omega, decide_true,
    Bool.true_and]
  by_cases hk : j < k
  · simp [hk]
  · have hdrop : ¬ 64 * i + j < k := by omega
    have hsub : 64 * i + j - k = 64 * i + (j - k) := by omega
    rw [getLsbD_lane _ _ (by omega), hsub]
    simp [hk, hdrop, show j - k < 64 by omega]

theorem lane_shrLanes (x : BitVec 4096) (k : Nat) {i : Nat} (hi : i < 64) :
    lane (shrLanes x k) i = shr64 (lane x i) k := by
  apply BitVec.eq_of_getLsbD_eq
  intro j hj
  rw [getLsbD_lane _ _ hj, shrLanes, BitVec.getLsbD_and, getLsbD_replicate_mask _ hi hj, shr64]
  simp only [BitVec.getLsbD_ushiftRight, BitVec.getLsbD_allOnes]
  by_cases hk : k + j < 64
  · rw [getLsbD_lane _ _ hk, Nat.add_left_comm]
    simp [hk]
  · simp [hk, lane]

/-- 64 states side by side. -/
structure WideState where
  s0 : BitVec 4096
  s1 : BitVec 4096
  s2 : BitVec 4096
  s3 : BitVec 4096
  deriving DecidableEq

namespace WideState

/-- The state in lane `i`. -/
def state (x : WideState) (i : Nat) : GenState := ⟨lane x.s0 i, lane x.s1 i, lane x.s2 i, lane x.s3 i⟩

/-- The zero state in every lane. -/
def zero : WideState := ⟨0, 0, 0, 0⟩

/-- Exclusive or in every lane. -/
def xor (x y : WideState) : WideState := ⟨x.s0 ^^^ y.s0, x.s1 ^^^ y.s1, x.s2 ^^^ y.s2, x.s3 ^^^ y.s3⟩

/-- `step()` in every lane (41_core_transition.md R92). -/
def step (x : WideState) : WideState :=
  let s2 := x.s2 ^^^ x.s0
  let s3 := x.s3 ^^^ x.s1
  ⟨x.s0 ^^^ s3, x.s1 ^^^ s2, s2 ^^^ shlLanes x.s1 17, shlLanes s3 45 ||| shrLanes s3 19⟩

/-- The polynomial whose coefficients are the low `n` bits of `p`, in every lane, by Horner's scheme. -/
def combine (x : WideState) : Nat → Nat → WideState
  | 0, _ => zero
  | n + 1, p => (if p.testBit 0 then x else zero).xor (combine x n (p / 2)).step

theorem state_zero (i : Nat) : zero.state i = GenState.zero := by
  have hlane : lane 0 i = 0 := BitVec.extractLsb'_zero
  simp only [state, zero, hlane, GenState.zero]

theorem state_xor (x y : WideState) (i : Nat) : (x.xor y).state i = (x.state i).xor (y.state i) := by
  simp only [state, xor, lane_xor, GenState.xor, xor64]

theorem state_step (x : WideState) {i : Nat} (hi : i < 64) : x.step.state i = (x.state i).step := by
  simp only [state, step, lane_xor, lane_or, lane_shlLanes _ _ hi, lane_shrLanes _ _ hi, GenState.step, xor64, rotl64,
    or64]

theorem state_combine (x : WideState) (n p : Nat) {i : Nat} (hi : i < 64) :
    (x.combine n p).state i = GenState.combine p.testBit n (x.state i) := by
  induction n generalizing p with
  | zero => exact state_zero i
  | succ n ih =>
    rw [combine, state_xor, state_step _ hi, ih, combine_testBit_succ, apply_ite (state · i), state_zero]

/-- The 64 states of `combine_eq_zero_of_bits`: bit `i` of the last word in lane `i`, which is bit `65 * i` of
the wide word. -/
def bits : WideState := ⟨0, 0, 0, BitVec.ofNat 4096 ((2 ^ 4160 - 1) / (2 ^ 65 - 1))⟩

theorem state_bits : ∀ i < 64, bits.state i = ⟨0, 0, 0, BitVec.twoPow 64 i⟩ := by
  decide +kernel

end WideState

/-! ### R97: the polynomial that annihilates `step()` -/

/-- A table as one number, whose bit `j` is the coefficient of `x^j` (43_jump.md R135). -/
def JumpTable.toNat (P : JumpTable) : Nat := (P.p3 ++ P.p2 ++ P.p1 ++ P.p0 : BitVec 256).toNat

theorem JumpTable.toNat_lt (P : JumpTable) : P.toNat < 2 ^ 256 := (P.p3 ++ P.p2 ++ P.p1 ++ P.p0 : BitVec 256).isLt

theorem JumpTable.testBit_toNat (P : JumpTable) {j : Nat} (hj : j < 256) : P.toNat.testBit j = P.coeff j := by
  have hlast : j - 64 - 64 - 64 < 64 := by omega
  change _ = coeffOf [P.p0, P.p1, P.p2, P.p3] j
  simp only [JumpTable.toNat, BitVec.testBit_toNat, BitVec.getLsbD_append, coeffOf_cons, hlast, if_true]

/-- The polynomial of R97 as one number. -/
def annihilator : Nat := 2 ^ 256 + stepPoly.toNat

theorem bits_annihilated : WideState.bits.combine 257 annihilator = WideState.zero := by
  decide +kernel

theorem annihilator_annihilates (g : GenState) : GenState.combine annihilator.testBit 257 g = GenState.zero :=
  combine_eq_zero_of_bits (fun i hi => by
    rw [← WideState.state_bits i hi, ← WideState.state_combine _ _ _ hi, bits_annihilated, WideState.state_zero]) g

/-- 256 steps are the polynomial of R97 without its leading term. -/
theorem iterate_step_256 (g : GenState) : GenState.step^[256] g = GenState.combine stepPoly.coeff 256 g := by
  have hlead : annihilator.testBit 256 = true := by
    rw [annihilator, Nat.testBit_two_pow_add_eq, Nat.testBit_lt_two_pow stepPoly.toNat_lt]
    rfl
  have hrest : GenState.combine annihilator.testBit 256 g = GenState.combine stepPoly.coeff 256 g :=
    combine_congr g fun j hj => by rw [annihilator, Nat.testBit_two_pow_add_gt hj, stepPoly.testBit_toNat hj]
  have hsum := annihilator_annihilates g
  rw [combine_succ, hlead, if_pos rfl, hrest, genState_xor_eq_zero_iff] at hsum
  exact hsum.symm

/-! ### R130 to R133: the tables by repeated squaring

Products of polynomials are taken modulo the one of R97. -/

/-- The product with `x`: the lower terms of the polynomial of R97 replace `x^256`. -/
def timesX (p : Nat) : Nat := (2 * p % 2 ^ 256) ^^^ (p / 2 ^ 255 % 2 * stepPoly.toNat)

/-- The product of `q` with the polynomial of the low `n` bits of `p`, by Horner's scheme. -/
def mulMod (q : Nat) : Nat → Nat → Nat
  | 0, _ => 0
  | n + 1, p => (p % 2 * q) ^^^ timesX (mulMod q n (p / 2))

/-- The square of a polynomial. -/
def squareMod (p : Nat) : Nat := mulMod p 256 p

theorem combine_testBit_zero (n : Nat) (g : GenState) : GenState.combine (Nat.testBit 0) n g = GenState.zero := by
  induction n with
  | zero => rfl
  | succ n ih =>
    rw [combine_succ, ih, Nat.zero_testBit]
    simp

theorem combine_testBit_xor (p q n : Nat) (g : GenState) :
    GenState.combine (p ^^^ q).testBit n g = (GenState.combine p.testBit n g).xor (GenState.combine q.testBit n g) := by
  rw [← combine_xor_coeff]
  exact combine_congr g fun j _ => Nat.testBit_xor p q j

/-- A bit times a polynomial. -/
theorem combine_testBit_bit_mul (p q n : Nat) (g : GenState) : GenState.combine (p % 2 * q).testBit n g =
    if p.testBit 0 then GenState.combine q.testBit n g else GenState.zero := by
  rw [Nat.testBit_zero]
  obtain h | h := Nat.mod_two_eq_zero_or_one p <;> simp [h, combine_testBit_zero]

theorem combine_timesX (p : Nat) (g : GenState) :
    GenState.combine (timesX p).testBit 256 g = (GenState.combine p.testBit 256 g).step := by
  have hhalf : 2 * p / 2 = p := Nat.mul_div_cancel_left p (by decide)
  have hlow : GenState.combine (2 * p % 2 ^ 256).testBit 256 g = GenState.combine (2 * p).testBit 256 g :=
    combine_congr g fun j hj => by rw [Nat.testBit_mod_two_pow, decide_eq_true hj, Bool.true_and]
  have htop : (p / 2 ^ 255).testBit 0 = (2 * p).testBit 256 := by
    rw [Nat.testBit_div_two_pow, Nat.testBit_succ (2 * p), hhalf]
  have hlower : GenState.combine stepPoly.toNat.testBit 256 g = GenState.step^[256] g :=
    (combine_congr g fun j hj => stepPoly.testBit_toNat hj).trans (iterate_step_256 g).symm
  calc GenState.combine (timesX p).testBit 256 g
    _ = (GenState.combine (2 * p).testBit 256 g).xor
        (if (2 * p).testBit 256 then GenState.step^[256] g else GenState.zero) := by
      rw [timesX, combine_testBit_xor, combine_testBit_bit_mul, hlow, htop, hlower]
    _ = GenState.combine (2 * p).testBit 257 g := (combine_succ _ _ _).symm
    _ = (GenState.combine p.testBit 256 g).step := by
      rw [combine_testBit_succ, hhalf]
      simp

/-- The product applies the two polynomials one after the other. -/
theorem combine_mulMod (q n p : Nat) (g : GenState) : GenState.combine (mulMod q n p).testBit 256 g =
    GenState.combine p.testBit n (GenState.combine q.testBit 256 g) := by
  induction n generalizing p with
  | zero => exact combine_testBit_zero 256 g
  | succ n ih =>
    rw [combine_testBit_succ p, mulMod, combine_testBit_xor, combine_timesX, ih, combine_testBit_bit_mul]

/-- The polynomial `x` is one step. -/
theorem combine_testBit_two (g : GenState) : GenState.combine (Nat.testBit 2) 256 g = g.step := by
  rw [combine_testBit_succ, combine_testBit_succ]
  simp [combine_testBit_zero, step_zero]

/-- Squaring a polynomial applies it twice, so `k` squarings of `x` are `2^k` steps. -/
theorem combine_iterate_squareMod (k : Nat) (g : GenState) :
    GenState.combine (squareMod^[k] 2).testBit 256 g = GenState.step^[2 ^ k] g := by
  induction k generalizing g with
  | zero => exact combine_testBit_two g
  | succ k ih =>
    calc GenState.combine (squareMod^[k + 1] 2).testBit 256 g
      _ = GenState.step^[2 ^ k] (GenState.step^[2 ^ k] g) := by
        rw [Function.iterate_succ_apply', squareMod, combine_mulMod, ih, ih]
      _ = GenState.step^[2 ^ (k + 1)] g := by
        rw [← Function.iterate_add_apply, ← Nat.two_mul, ← Nat.pow_succ']

/-- A table that is `k` squarings of `x` jumps `2^k` steps. -/
theorem jumpWith_eq_iterate_step {P : JumpTable} {k : Nat} (h : squareMod^[k] 2 = P.toNat) (g : GenState) :
    jumpWith P g = GenState.step^[2 ^ k] g := by
  rw [jumpWithIsAPolynomialInStep, ← combine_iterate_squareMod, h]
  exact combine_congr g fun j hj => (P.testBit_toNat hj).symm

/-- `JUMP_POLY` is `x^(2^128)` (43_jump.md R132). -/
theorem squareMod_iterate_128 : squareMod^[128] 2 = jumpPoly.toNat := by
  decide +kernel

/-- `LONG_JUMP_POLY` is the other table, squared 64 times. -/
theorem squareMod_iterate_jumpPoly : squareMod^[64] jumpPoly.toNat = longJumpPoly.toNat := by
  decide +kernel

/-- `LONG_JUMP_POLY` is `x^(2^192)` (43_jump.md R133). -/
theorem squareMod_iterate_192 : squareMod^[192] 2 = longJumpPoly.toNat :=
  calc squareMod^[192] 2
    _ = squareMod^[64] (squareMod^[128] 2) := Function.iterate_add_apply squareMod 64 128 2
    _ = longJumpPoly.toNat := by rw [squareMod_iterate_128, squareMod_iterate_jumpPoly]

/-- New words and the response 0. With a variable for the words, no check of it evaluates a jump. -/
theorem respond_zero_words (g : GenState) (s : State) :
    respond 0 { s with S := g } = .next { s with S := g, rsp := some ⟨false, 0⟩ } :=
  respond_eq 0 _

theorem exec_jump (s : State) :
    exec .jump s = .next { s with S := jumpWith jumpPoly s.S, rsp := some ⟨false, 0⟩ } :=
  respond_zero_words _ s

theorem exec_ljump (s : State) :
    exec .ljump s = .next { s with S := jumpWith longJumpPoly s.S, rsp := some ⟨false, 0⟩ } :=
  respond_zero_words _ s

/-- Settles O32: the opcode's row of the decoder, and 128 squarings of `x`. -/
theorem jumpAdvances2pow128Steps : Obligations.JumpAdvances2pow128Steps :=
  ⟨fun _ h => decode_of_opcode h, fun s => by rw [exec_jump, jumpWith_eq_iterate_step squareMod_iterate_128]⟩

/-- Settles O33: the opcode's row of the decoder, and 192 squarings of `x`. -/
theorem longJumpAdvances2pow192Steps : Obligations.LongJumpAdvances2pow192Steps :=
  ⟨fun _ h => decode_of_opcode h, fun s => by rw [exec_ljump, jumpWith_eq_iterate_step squareMod_iterate_192]⟩

end Sys2Proof.Machine
end

-- Proofs of the statements about the state access of 44_state_access.md
section
/-! PROOF. `SETS` and `GETS` (44_state_access.md R150, R151): the one word each of them names. -/

namespace Sys2Proof.Machine

theorem exec_sets (k : Fin 4) (v : Word) (s : State) :
    exec (.sets k v) s = .next { s with S := s.S.set k v, rsp := some ⟨false, 0⟩ } :=
  respond_zero_words _ s

theorem exec_gets (k : Fin 4) (s : State) : exec (.gets k) s = .next { s with rsp := some ⟨false, s.S.get k⟩ } :=
  respond_eq _ s

/-- Settles O38: the opcode's row of the decoder, and what the words read after the write of one. -/
theorem setsWritesOneWord : Obligations.SetsWritesOneWord :=
  ⟨fun _ k h => (decode_of_opcode h).trans (commandOf_sets k _), fun k v s =>
    ⟨s.S.set k v, exec_sets k v s, get_set_same s.S v k, fun _ hne => get_set_other s.S v hne⟩⟩

/-- Settles O39: the opcode's row of the decoder, and the response at each of the four indexes. -/
theorem getsRespondsOneWord : Obligations.GetsRespondsOneWord :=
  ⟨fun _ k h => (decode_of_opcode h).trans (commandOf_gets k _), fun s =>
    ⟨exec_gets 0 s, exec_gets 1 s, exec_gets 2 s, exec_gets 3 s⟩⟩

end Sys2Proof.Machine
end

-- Proofs of the statements about reset and hazards of 70_reset_and_hazards.md
section
/-! PROOF. A run of the block as an atomic run of its commands (70_reset_and_hazards.md R185, R190, R195): what a state
still owes is the response it shows, that of the command in flight, and those of the commands to come; each clock edge
turns an accepted command into one in flight and that into a response shown, and what is owed stays the same. -/

namespace Sys2Proof.Machine

/-- Settles O50: each value of R185, with no response shown on the port. -/
theorem resetState : Obligations.ResetState :=
  ⟨rfl, rfl, rfl, rfl, reset_inFlight, reset_cmdReady, rfl⟩

/-! ### Atomic runs -/

/-- The result of an atomic run with earlier responses put in front. -/
def prependResponses (l : List Response) (p : GenState × List Response) : GenState × List Response := (p.1, l ++ p.2)

@[simp] theorem prependResponses_nil : prependResponses [] = id := rfl

@[simp] theorem prependResponses_comp (l l' : List Response) :
    prependResponses l ∘ prependResponses l' = prependResponses (l ++ l') := by
  funext p
  simp [prependResponses]

theorem effects_cons {i : Instr} {g g₁ : GenState} {r : Response} (h : effect i g = some (g₁, r)) (is : List Instr) :
    effects (i :: is) g = (effects is g₁).map (prependResponses [r]) := by
  simp only [effects, h]
  rfl

theorem exists_effect (i : Instr) (g : GenState) : ∃ g₁ r, effect i g = some (g₁, r) := by
  obtain ⟨g₁, r, h⟩ := exec_shape i { State.reset with S := g }
  exact ⟨g₁, r, effect_of_exec (s := { State.reset with S := g }) h⟩

theorem exists_effects (is : List Instr) (g : GenState) : ∃ p, effects is g = some p := by
  induction is generalizing g with
  | nil => exact ⟨_, rfl⟩
  | cons i is ih =>
    obtain ⟨g₁, r, h⟩ := exists_effect i g
    obtain ⟨p, hp⟩ := ih g₁
    exact ⟨prependResponses [r] p, by rw [effects_cons h, hp]; rfl⟩

/-- The first `k` responses are those of the first `k` commands. -/
theorem effects_take {is : List Instr} {g h : GenState} {rs : List Response} (he : effects is g = some (h, rs))
    (k : Nat) : ∃ h', effects (is.take k) g = some (h', rs.take k) := by
  induction is generalizing g rs k with
  | nil =>
    cases he
    exact ⟨h, by simp [effects]⟩
  | cons i is ih =>
    obtain ⟨g₁, r, hi⟩ := exists_effect i g
    obtain ⟨⟨h₁, rs₁⟩, hrest⟩ := exists_effects is g₁
    rw [effects_cons hi, hrest] at he
    cases he
    cases k with
    | zero => exact ⟨g, rfl⟩
    | succ k =>
      obtain ⟨h', hk⟩ := ih hrest k
      exact ⟨h', by rw [List.take_succ_cons, effects_cons hi, hk]; rfl⟩

/-! ### One clock edge -/

theorem exists_step (s : State) : ∃ t, step s = .next t := by
  unfold step
  split
  · exact ⟨_, rfl⟩
  · split
    · exact ⟨_, rfl⟩
    · next f _ =>
      split
      · obtain ⟨g, r, h⟩ := exec_shape (decode f.word) s.clock
        exact ⟨_, by rw [h, retire_next]⟩
      · exact ⟨_, rfl⟩

theorem NoReset_step {s t : State} (hs : s.NoReset) (h : step s = .next t) : t.NoReset := by
  have hclock := NoReset_clock hs
  obtain ⟨hrst, -⟩ | ⟨-, -, rfl⟩ | ⟨f, n, -, -, -, rfl⟩ | ⟨f, g, r, -, -, -, -, rfl⟩ := step_cases h
  · rw [NoReset_rst hs] at hrst
    cases hrst
  all_goals exact hclock

theorem delivering_of_rst_eq_false {s : State} (h : s.rst = false) : s.delivering = s.rsp := by
  simp [State.delivering, h]

/-- The command in flight, as a command sequence. -/
def State.underWay (s : State) : List Instr := s.inFlight.toList.map fun f => decode f.word

/-- The clock edge puts an accepted command in flight. -/
theorem underWay_clock (s : State) : s.clock.underWay = s.underWay ++ s.accepting.toList.map decode := by
  cases ha : s.accepting with
  | none => simp [State.underWay, clock_not_accepting ha]
  | some cw =>
    obtain ⟨-, -, hidle, -⟩ := accepting_eq_some.1 ha
    simp [State.underWay, clock_accepting ha, hidle]

/-- What `s` owes if the commands `is` come next: the words after the atomic run of the command in flight and then `is`,
and the response `s` shows followed by those of that run. -/
def State.owed (s : State) (is : List Instr) : Option (GenState × List Response) :=
  (effects (s.underWay ++ is) s.S).map (prependResponses s.rsp.toList)

theorem owed_of_idle {s : State} (hf : s.inFlight = none) (hr : s.rsp = none) (is : List Instr) :
    s.owed is = effects is s.S := by
  simp [State.owed, State.underWay, hf, hr]

/-- The rest of a step after the clock edge: a command that ends has its response shown and is no longer in flight. -/
theorem owed_clock_of_step {s t : State} (hrst : s.rst = false) (h : step s = .next t) (is : List Instr) :
    s.clock.owed is = t.owed is := by
  obtain ⟨hrst', -⟩ | ⟨-, -, rfl⟩ | ⟨f, n, -, hf, -, rfl⟩ | ⟨f, g, r, -, hf, -, hexec, rfl⟩ := step_cases h
  · rw [hrst] at hrst'
    cases hrst'
  · rfl
  · simp [State.owed, State.underWay, hf]
  · have heffect : effect (decode f.word) s.S = some (g, r) := by
      rw [← clock_S]
      exact effect_of_exec hexec
    simp [State.owed, State.underWay, hf, effects_cons heffect]

/-- One clock edge delivers the response shown, and takes the accepted command over from those to come. -/
theorem owed_of_step {s t : State} (hrst : s.rst = false) (h : step s = .next t) (is : List Instr) :
    s.owed (s.accepting.toList.map decode ++ is) = (t.owed is).map (prependResponses s.delivering.toList) := by
  rw [← owed_clock_of_step hrst h, delivering_of_rst_eq_false hrst]
  simp [State.owed, underWay_clock]

/-! ### Runs -/

section Succ

variable {s t : State} (h : step s = .next t) (n : Nat)
include h

theorem after_succ : s.after (n + 1) = t.after n := by simp only [State.after, h]

theorem accepted_succ : s.accepted (n + 1) = s.accepting.toList ++ t.accepted n := by simp only [State.accepted, h]

theorem delivered_succ : s.delivered (n + 1) = s.delivering.toList ++ t.delivered n := by
  simp only [State.delivered, h]

end Succ

/-- A run without reset delivers responses that were owed at its start, and leaves the others owed at its end. -/
theorem owed_accepted (n : Nat) {s : State} (hs : s.NoReset) : ∃ t, s.after n = some t ∧
    s.owed ((s.accepted n).map decode) = (t.owed []).map (prependResponses (s.delivered n)) := by
  induction n generalizing s with
  | zero => exact ⟨s, rfl, by simp [State.accepted, State.delivered]⟩
  | succ n ih =>
    obtain ⟨u, hu⟩ := exists_step s
    obtain ⟨t, hafter, howed⟩ := ih (NoReset_step hs hu)
    refine ⟨t, by rw [after_succ hu, hafter], ?_⟩
    rw [accepted_succ hu, List.map_append, owed_of_step (NoReset_rst hs) hu, howed, delivered_succ hu, Option.map_map,
      prependResponses_comp]

/-- From an idle state the responses delivered are the first ones of the accepted commands, run atomically. -/
theorem effects_accepted_of_idle {s : State} (hf : s.inFlight = none) (hr : s.rsp = none) (hs : s.NoReset) (n : Nat) :
    ∃ g rest, effects ((s.accepted n).map decode) s.S = some (g, s.delivered n ++ rest) := by
  obtain ⟨t, -, howed⟩ := owed_accepted n hs
  obtain ⟨p, hp⟩ := exists_effects t.underWay t.S
  rw [owed_of_idle hf hr] at howed
  simp only [State.owed, List.append_nil, hp, Option.map_some] at howed
  exact ⟨_, _, howed⟩

/-- R195: response number `m` is the last one of the atomic run of the first `m + 1` accepted commands. -/
theorem effects_of_delivered_response {s : State} (hf : s.inFlight = none) (hr : s.rsp = none) (hs : s.NoReset)
    {n m : Nat} {r : Response} (hm : (s.delivered n)[m]? = some r) :
    ∃ g rs, effects (((s.accepted n).map decode).take (m + 1)) s.S = some (g, rs) ∧ rs[m]? = some r := by
  obtain ⟨g, rest, he⟩ := effects_accepted_of_idle hf hr hs n
  obtain ⟨g', hk⟩ := effects_take he (m + 1)
  obtain ⟨hlt, -⟩ := List.getElem?_eq_some_iff.mp hm
  exact ⟨g', _, hk, by rw [List.getElem?_take_of_succ, List.getElem?_append_left hlt, hm]⟩

/-- Settles O59: both runs have this response from the same atomic run of the first `m + 1` commands. -/
theorem timingDoesNotMatter : Obligations.TimingDoesNotMatter := by
  intro s s' n n' m r r' hS hf hf' hrsp hrsp' hs hs' hcommands hm hm'
  obtain ⟨g, rs, he, hr⟩ := effects_of_delivered_response hf hrsp hs hm
  obtain ⟨g', rs', he', hr'⟩ := effects_of_delivered_response hf' hrsp' hs' hm'
  have hrs : (g, rs) = (g', rs') := Option.some.inj (by rw [← he, ← he', hS, hcommands])
  have hlast : some r = some r' := by rw [← hr, ← hr', (Prod.mk.inj hrs).2]
  exact Option.some.inj hlast

end Sys2Proof.Machine
end

-- Proofs of the statements about encoded commands and assembler text of 30_encoding.md
section
/-! PROOF. The decoder undoes the encoder (30_encoding.md R59, R61, R63), and the words and lines that the spec writes
out (30_encoding.md R65, R66). -/

namespace Sys2Proof

open Sys2Proof.Machine Sys2Proof.Laws

/-- The upper two bits of the opcode select the command, the lower two are the index (30_encoding.md R59). -/
theorem opcode_sets (k : Fin 4) : (2 : BitVec 2) ++ BitVec.ofFin (w := 2) k = BitVec.ofNat 4 (8 + k.val) := by
  fin_cases k <;> rfl

theorem opcode_gets (k : Fin 4) : (3 : BitVec 2) ++ BitVec.ofFin (w := 2) k = BitVec.ofNat 4 (12 + k.val) := by
  fin_cases k <;> rfl

/-- The halves of the argument of `INT` are its operands. -/
theorem commandOf_int (frm upto : Half) : commandOf 3 (upto ++ frm) = .int frm upto :=
  congr (congrArg Instr.int BitVec.extractLsb'_append_eq_right) BitVec.extractLsb'_append_eq_left

theorem commandOf_illegal {op : Opcode} (h : (Instr.illegal op).wellFormed = true) (arg : Word) :
    commandOf op arg = .illegal op := by
  have hop : op = 6 ∨ op = 7 := by simpa [Instr.wellFormed] using h
  obtain rfl | rfl := hop <;> rfl

/-- Settles O3: the row of `commandOf` at the opcode that each command is encoded with. -/
theorem decodeOfEncodeIsTheInstruction : Obligations.DecodeOfEncodeIsTheInstruction := by
  intro i hwf
  cases i with
  | int frm upto => exact (decode_commandWord 3 _).trans (commandOf_int frm upto)
  | sets k v => rw [encode, opcode_sets, decode_commandWord, commandOf_sets]
  | gets k => rw [encode, opcode_gets, decode_commandWord, commandOf_gets]
  | illegal op => exact (decode_commandWord op 0).trans (commandOf_illegal hwf 0)
  | _ => exact decode_commandWord _ _

/-- Settles O1: the decoder evaluated at the ten words. -/
theorem writtenOutWordsDecode : Obligations.WrittenOutWordsDecode := by
  unfold Obligations.WrittenOutWordsDecode
  decide

/-- Settles O7: the assembler evaluated at the lines. -/
theorem assemblerLinesGiveTheirWords : Obligations.AssemblerLinesGiveTheirWords :=
  ⟨rfl, rfl⟩

end Sys2Proof
end

-- Proofs of the statements about all commands at once
section
/-! PROOF. Each command as two functions of the four words, the words it leaves and its response (10_state.md R22,
30_encoding.md R57), and a command sequence as the fold of the first (20_memory.md R47). -/

namespace Sys2Proof.Machine

/-! ### R22: a command as a function of the four words -/

/-- The words a command leaves. -/
def wordsAfter : Instr → GenState → GenState
  | .init seed, _ => expandSeed seed
  | .next, g => g.step
  | .dbl, g => g.step
  | .int frm upto, g => if frm = upto then g else g.step
  | .jump, g => jumpWith jumpPoly g
  | .ljump, g => jumpWith longJumpPoly g
  | .sets k v, g => g.set k v
  | .gets _, g => g
  | .illegal _, g => g

/-- The response of a command. -/
def responseTo : Instr → GenState → Response
  | .init _, _ => ⟨false, 0⟩
  | .next, g => ⟨false, g.out⟩
  | .dbl, g => ⟨false, fmtDbl g.out⟩
  | .int frm upto, g => if frm = upto then ⟨false, sext64 frm⟩ else ⟨false, sext64 (fmtInt frm upto g.out)⟩
  | .jump, _ => ⟨false, 0⟩
  | .ljump, _ => ⟨false, 0⟩
  | .sets _ _, _ => ⟨false, 0⟩
  | .gets k, g => ⟨false, g.get k⟩
  | .illegal _, _ => ⟨true, 1⟩

/-- These two functions are the whole of a command: nothing else is read or changed. -/
theorem exec_eq (i : Instr) (s : State) :
    exec i s = .next { s with S := wordsAfter i s.S, rsp := some (responseTo i s.S) } := by
  cases i with
  | init seed => exact respond_zero_words _ s
  | int frm upto =>
    by_cases h : frm = upto
    · rw [wordsAfter, responseTo, if_pos h, if_pos h, ← h, exec_int_self]
    · rw [wordsAfter, responseTo, if_neg h, if_neg h, exec_int_of_ne h]
  | jump => exact exec_jump s
  | ljump => exact exec_ljump s
  | sets k v => exact exec_sets k v s
  | gets k => exact exec_gets k s
  | illegal op => exact raiseIllegalOp_eq s
  | next | dbl => exact respond_eq _ (drawn s)

theorem eq_of_exec_eq_next {i : Instr} {s t : State} (h : exec i s = .next t) :
    t = { s with S := wordsAfter i s.S, rsp := some (responseTo i s.S) } :=
  (Host.Outcome.next.inj ((exec_eq i s).symm.trans h)).symm

theorem effect_eq (i : Instr) (g : GenState) : effect i g = some (wordsAfter i g, responseTo i g) := by
  obtain ⟨s, rfl⟩ : ∃ s : State, s.S = g := ⟨{ State.reset with S := g }, rfl⟩
  exact effect_of_exec (exec_eq i s)

theorem responseTo_err {i : Instr} {g : GenState} : (responseTo i g).err = true ↔ ∃ op, i = .illegal op := by
  cases i with
  | int frm upto => by_cases h : frm = upto <;> simp [responseTo, h]
  | _ => simp [responseTo]

/-- Settles O6: the arm of `exec` for an illegal word. -/
theorem illegalWordRespondsWithTheCauseCode : Obligations.IllegalWordRespondsWithTheCauseCode :=
  fun op s => exec_eq (.illegal op) s

/-- Settles O41: the response of `exec_eq`. -/
theorem everyCommandCompletesWithAResponse : Obligations.EveryCommandCompletesWithAResponse :=
  fun i s => ⟨_, responseTo i s.S, exec_eq i s, rfl, responseTo_err⟩

/-- Settles O42: the frame is in `exec_eq`, and what is left of `S` in `wordsAfter`. -/
theorem commandsWriteOnlyTheirWords : Obligations.CommandsWriteOnlyTheirWords := by
  intro i s t h
  rw [eq_of_exec_eq_next h]
  refine ⟨rfl, rfl, rfl, rfl, rfl, ?_⟩
  cases i with
  | init | jump | ljump => trivial
  | next | dbl | gets | illegal => rfl
  | int frm upto => by_cases heq : frm = upto <;> simp [wordsAfter, heq]
  | sets k v => exact fun _ hne => get_set_other s.S v hne

/-- Settles O43: both functions read the four words alone, and `out()` reads `S[1]` alone. -/
theorem commandsReadOnlyTheirWords : Obligations.CommandsReadOnlyTheirWords := by
  intro i s s' t t' h h'
  rw [eq_of_exec_eq_next h, eq_of_exec_eq_next h']
  refine ⟨fun hS => by simp only [hS, and_self], ?_⟩
  cases i with
  | init => exact ⟨rfl, rfl⟩
  | jump | ljump | illegal => rfl
  | next | dbl =>
    intro hs1
    simp only [responseTo, out_eq_out_iff.mpr hs1]
  | int frm upto =>
    rintro (heq | hs1)
    · simp only [responseTo, if_pos heq]
    · simp only [responseTo, out_eq_out_iff.mpr hs1]
  | gets k =>
    intro hk
    simp only [responseTo, hk]
  | sets k v => exact ⟨by simp only [wordsAfter, get_set_same], rfl⟩

/-! ### R47: command sequences -/

theorem effects_cons_eq (i : Instr) (is : List Instr) (g : GenState) :
    effects (i :: is) g = (effects is (wordsAfter i g)).map (prependResponses [responseTo i g]) :=
  effects_cons (effect_eq i g) is

/-- A sequence leaves the words that its commands leave one after the other. -/
theorem effects_words (is : List Instr) (g : GenState) :
    (effects is g).map Prod.fst = some (is.foldl (fun h i => wordsAfter i h) g) := by
  induction is generalizing g with
  | nil => rfl
  | cons i is ih =>
    rw [effects_cons_eq, Option.map_map, List.foldl_cons, ← ih]
    rfl

/-- Settles O44: the illegal word is the identity in the fold. -/
theorem illegalCommandDisturbsNothing : Obligations.IllegalCommandDisturbsNothing := by
  intro before after op g
  simp only [effects_words, List.foldl_append, List.foldl_cons, wordsAfter]

/-- The order of a sequence does not matter to the words if any two of its commands may be exchanged. -/
theorem effects_words_of_perm {l l' : List Instr} (hperm : l.Perm l')
    (hcomm : ∀ i ∈ l', ∀ j ∈ l', ∀ h, wordsAfter j (wordsAfter i h) = wordsAfter i (wordsAfter j h)) (g : GenState) :
    (effects l g).map Prod.fst = (effects l' g).map Prod.fst := by
  rw [effects_words, effects_words, hperm.symm.foldl_eq' hcomm]

/-- The four writes of `LOADS` go to four different words. -/
theorem loads_comm (a b c d : Word) : ∀ i ∈ Instr.loads a b c d, ∀ j ∈ Instr.loads a b c d, ∀ h,
    wordsAfter j (wordsAfter i h) = wordsAfter i (wordsAfter j h) := by
  intro i hi j hj h
  fin_cases hi <;> fin_cases hj <;> rfl

theorem reads_comm : ∀ i ∈ Instr.reads, ∀ j ∈ Instr.reads, ∀ h,
    wordsAfter j (wordsAfter i h) = wordsAfter i (wordsAfter j h) := by
  intro i hi j hj h
  fin_cases hi <;> fin_cases hj <;> rfl

theorem effects_loads (a b c d : Word) (g : GenState) : effects (Instr.loads a b c d) g =
    some (⟨a, b, c, d⟩, [⟨false, 0⟩, ⟨false, 0⟩, ⟨false, 0⟩, ⟨false, 0⟩]) := rfl

theorem effects_reads (g : GenState) : effects Instr.reads g =
    some (g, [⟨false, g.s0⟩, ⟨false, g.s1⟩, ⟨false, g.s2⟩, ⟨false, g.s3⟩]) := rfl

/-- Settles O40: the two sequences in their own order, and the exchange of any two commands of either. -/
theorem loadsThenReadsTransfersTheState : Obligations.LoadsThenReadsTransfersTheState := by
  refine fun a b c d g => ⟨effects_loads a b c d g, effects_reads g, fun l hl => ?_, fun l hl => ?_⟩
  · rw [effects_words_of_perm hl (loads_comm a b c d), effects_loads]
    rfl
  · rw [effects_words_of_perm hl reads_comm, effects_reads]
    rfl

/-- A sequence whose commands step or do nothing steps as often as it has commands that step. -/
theorem effects_words_of_draws {p : Instr → Bool} {is : List Instr}
    (h : ∀ i ∈ is, ∀ g, wordsAfter i g = if p i then g.step else g) (g : GenState) :
    (effects is g).map Prod.fst = some (GenState.step^[is.countP p] g) := by
  rw [effects_words]
  induction is generalizing g with
  | nil => rfl
  | cons i is ih =>
    obtain ⟨hi, his⟩ := List.forall_mem_cons.mp h
    rw [List.foldl_cons, ih his, hi, List.countP_cons]
    cases p i <;> simp

/-- Settles O46: of the commands allowed, `NEXT`, `DBL` and `INT` with different bounds step. -/
theorem drawsMoveTheStreamByOne : Obligations.DrawsMoveTheStreamByOne := by
  refine fun is g hdraws => effects_words_of_draws (fun i hi h => ?_) g
  obtain rfl | rfl | ⟨a, b, rfl⟩ | ⟨k, rfl⟩ | ⟨op, rfl⟩ := hdraws i hi
  · rfl
  · rfl
  · by_cases hab : a = b <;> simp [wordsAfter, hab]
  · rfl
  · rfl

end Sys2Proof.Machine
end

-- Proofs of the statements about operand pairs and raw values of `INT` of 42_formatters.md
section
/-! PROOF. Descending operands, and the raw values with one remainder counted as numbers below 2^64 (42_formatters.md
R114, R116). -/

namespace Sys2Proof.Machine

/-- Settles O27: the sum of R111 wraps or does not. -/
theorem intDescendingGoesUpAndWraps : Obligations.IntDescendingGoesUpAndWraps := by
  intro frm upto v hlt
  have hne : frm ≠ upto := (ne_of_toInt_lt hlt).symm
  have hwidth : (upto.toInt - frm.toInt).natAbs = (frm.toInt - upto.toInt).toNat := by omega
  refine ⟨intRemainder frm upto v, by rw [intRemainder, hwidth], fun hfits => ?_, toInt_fmtInt_of_lt hne⟩
  have heq := toInt_fmtInt_of_le hfits
  exact ⟨heq, by omega⟩

/-- Words are counted as the numbers below 2^64. -/
theorem card_word_toNat (p : Nat → Prop) [DecidablePred p] :
    Fintype.card { v : Word // p v.toNat } = Nat.count p (2 ^ 64) := by
  let := Nat.CountSet.fintype p (2 ^ 64)
  rw [Nat.count_eq_card_fintype]
  refine Fintype.card_congr ⟨fun v => ⟨v.1.toNat, v.1.isLt, v.2⟩,
    fun n => ⟨BitVec.ofNatLT n.1 n.2.1, by rw [BitVec.toNat_ofNatLT]; exact n.2.2⟩, fun v => ?_, fun n => ?_⟩
  · exact Subtype.ext (BitVec.ofNatLT_toNat v.1)
  · exact Subtype.ext (BitVec.toNat_ofNatLT n.1 n.2.1)

/-- Settles O29: the numbers below 2^64 in one residue class. -/
theorem intModuloBias : Obligations.IntModuloBias := by
  intro frm upto r _ hr
  have hclass (v : Word) : (umod v (zext64 (intWidth frm upto))).toNat = r ↔
      v.toNat ≡ r [MOD (upto.toInt - frm.toInt).natAbs] := by
    rw [toNat_umod, toNat_zext64, toNat_intWidth, Nat.ModEq, Nat.mod_eq_of_lt hr]
  rw [Fintype.card_congr (Equiv.subtypeEquivRight hclass),
    card_word_toNat (· ≡ r [MOD (upto.toInt - frm.toInt).natAbs]), Nat.count_modEq_card _ (by omega),
    Nat.mod_eq_of_lt hr]

end Sys2Proof.Machine
end

-- Proofs of the statements about polynomials in `step()` of 41_core_transition.md and 43_jump.md
section
/-! PROOF. No polynomial of degree below 256 annihilates `step()`, as one state shows, whose run first sets a bit at step
255; so a table is determined by its jumps (41_core_transition.md R97, 43_jump.md R136, R137). -/

namespace Sys2Proof.Machine

/-! ### R97: the polynomial -/

/-- Settles O20: `iterate_step_256`, and the coefficients counted. -/
theorem stepSatisfiesItsPolynomial : Obligations.StepSatisfiesItsPolynomial :=
  ⟨fun g => genState_xor_eq_zero_iff.mpr (iterate_step_256 g).symm, by decide +kernel, by decide⟩

/-! ### R97, R136: no polynomial of lower degree -/

/-- Bit 0 of `S[0]`, a linear functional of the state. -/
def firstBit (g : GenState) : Bool := g.s0.getLsbD 0

@[simp] theorem firstBit_zero : firstBit GenState.zero = false := rfl

@[simp] theorem firstBit_xor (a b : GenState) : firstBit (a.xor b) = (firstBit a ^^ firstBit b) :=
  BitVec.getLsbD_xor

/-- A state whose `firstBit` is 0 for 255 steps and then 1. -/
def probe : GenState := ⟨0x5090B8399B295E6C, 0xCAB75AD3BCC0EAE5, 0x9E345401367C1F77, 0x946AB5AB5E72E459⟩

theorem firstBit_iterate_step_probe : ∀ j ≤ 255, firstBit (GenState.step^[j] probe) = decide (j = 255) := by
  decide +kernel

/-- A sum of terms whose `firstBit` is 0. -/
theorem firstBit_combine_eq_false (c : Nat → Bool) {n : Nat} {g : GenState}
    (h : ∀ j < n, firstBit (GenState.step^[j] g) = false) : firstBit (GenState.combine c n g) = false := by
  induction n with
  | zero => rw [combine_zero, firstBit_zero]
  | succ n ih =>
    rw [combine_succ, firstBit_xor, ih fun j hj => h j (by omega)]
    cases c n <;> simp [h n (by omega)]

/-- At the state `255 - n` steps after the probe, only the term of degree `n` enters the bit. -/
theorem firstBit_combine_probe (c : Nat → Bool) {n : Nat} (hn : n ≤ 255) :
    firstBit (GenState.combine c (n + 1) (GenState.step^[255 - n] probe)) = c n := by
  have hbit (j : Nat) (hj : j ≤ n) : firstBit (GenState.step^[j] (GenState.step^[255 - n] probe)) = decide (j = n) := by
    rw [← Function.iterate_add_apply, firstBit_iterate_step_probe _ (by omega)]
    exact decide_eq_decide.mpr (by omega)
  have hlower : firstBit (GenState.combine c n (GenState.step^[255 - n] probe)) = false :=
    firstBit_combine_eq_false c fun j hj => by rw [hbit j hj.le, decide_eq_false hj.ne]
  rw [combine_succ, firstBit_xor, hlower]
  cases c n <;> simp [hbit n le_rfl]

/-- A polynomial of degree below 256 that annihilates every state is 0: by the probe its leading coefficient is. -/
theorem coeff_eq_false_of_combine_eq_zero {c : Nat → Bool} {n : Nat} (hn : n ≤ 256)
    (h : ∀ g, GenState.combine c n g = GenState.zero) : ∀ j < n, c j = false := by
  induction n with
  | zero => exact fun j hj => absurd hj (Nat.not_lt_zero j)
  | succ n ih =>
    have hlead : c n = false := by rw [← firstBit_combine_probe c (by omega : n ≤ 255), h, firstBit_zero]
    have hrest (g : GenState) : GenState.combine c n g = GenState.zero := by
      rw [← h g, combine_succ, hlead]
      simp
    intro j hj
    obtain rfl | hj := (Nat.le_of_lt_succ hj).eq_or_lt
    · exact hlead
    · exact ih (by omega) hrest j hj

theorem coeff_eq_of_combine_eq {c d : Nat → Bool}
    (h : ∀ g, GenState.combine c 256 g = GenState.combine d 256 g) : ∀ j < 256, c j = d j := by
  have hdiff (g : GenState) : GenState.combine (fun j => c j ^^ d j) 256 g = GenState.zero := by
    rw [combine_xor_coeff, h, genState_xor_self]
  exact fun j hj => by simpa using coeff_eq_false_of_combine_eq_zero le_rfl hdiff j hj

/-- The coefficients are the bits of the four constants (43_jump.md R135). -/
theorem jumpTable_ext_coeff {P Q : JumpTable} (h : ∀ j < 256, P.coeff j = Q.coeff j) : P = Q := by
  have hword (i : Nat) (hi : i < 4) : P.words.getD i 0 = Q.words.getD i 0 := by
    apply BitVec.eq_of_getLsbD_eq
    intro j hj
    have hdiv : (64 * i + j) / 64 = i := by omega
    have hmod : (64 * i + j) % 64 = j := by omega
    have hcoeff := h (64 * i + j) (by omega)
    rwa [JumpTable.coeff, JumpTable.coeff, hdiv, hmod] at hcoeff
  exact congr (congr (congr (congrArg JumpTable.mk (hword 0 (by decide))) (hword 1 (by decide))) (hword 2 (by decide)))
    (hword 3 (by decide))

/-- Settles O21: equal jumps have equal coefficients. -/
theorem differentTablesActDifferently : Obligations.DifferentTablesActDifferently :=
  fun _ _ h => jumpTable_ext_coeff (coeff_eq_of_combine_eq h)

/-! ### R130 to R137: the jumps -/

/-- Settles O31: `jump_with` as a polynomial. -/
theorem jumpsCompleteByTheirTables : Obligations.JumpsCompleteByTheirTables :=
  fun s => ⟨by rw [exec_jump, jumpWithIsAPolynomialInStep]; rfl, by rw [exec_ljump, jumpWithIsAPolynomialInStep]; rfl⟩

theorem jumpWith_jumpPoly (g : GenState) : jumpWith jumpPoly g = GenState.step^[2 ^ 128] g :=
  jumpWith_eq_iterate_step squareMod_iterate_128 g

theorem jumpWith_longJumpPoly (g : GenState) : jumpWith longJumpPoly g = GenState.step^[2 ^ 192] g :=
  jumpWith_eq_iterate_step squareMod_iterate_192 g

/-- A table that jumps `n` steps is the only one that does. -/
theorem jumpWith_eq_iterate_step_iff {P Q : JumpTable} {n : Nat} (hQ : ∀ g, jumpWith Q g = GenState.step^[n] g) :
    (∀ g, jumpWith P g = GenState.step^[n] g) ↔ P = Q := by
  refine ⟨fun hP => differentTablesActDifferently P Q fun g => ?_, fun h => h ▸ hQ⟩
  rw [← jumpWithIsAPolynomialInStep, ← jumpWithIsAPolynomialInStep, hP, hQ]

/-- Settles O34: the printed tables jump as far as the contract says. -/
theorem jumpTablesAreTheOnlyOnes : Obligations.JumpTablesAreTheOnlyOnes :=
  ⟨fun _ => jumpWith_eq_iterate_step_iff jumpWith_jumpPoly,
    fun _ => jumpWith_eq_iterate_step_iff jumpWith_longJumpPoly⟩

theorem jumpWith_xor (P : JumpTable) (a b : GenState) : jumpWith P (a.xor b) = (jumpWith P a).xor (jumpWith P b) := by
  simp only [jumpWithIsAPolynomialInStep P, combine_xor]

@[simp] theorem jumpWith_zero (P : JumpTable) : jumpWith P GenState.zero = GenState.zero := by
  rw [jumpWithIsAPolynomialInStep, combine_state_zero]

/-- Both jumps are runs of the bijection `step()`. -/
theorem jumpWith_bijective {P : JumpTable} (hP : P ∈ [jumpPoly, longJumpPoly]) : Function.Bijective (jumpWith P) := by
  obtain ⟨n, hn⟩ : ∃ n, jumpWith P = GenState.step^[n] := by
    rw [List.mem_pair] at hP
    obtain rfl | rfl := hP
    · exact ⟨_, funext jumpWith_jumpPoly⟩
    · exact ⟨_, funext jumpWith_longJumpPoly⟩
  rw [hn]
  exact step_bijective.iterate n

theorem jumpWith_eq_zero_iff {P : JumpTable} (hP : P ∈ [jumpPoly, longJumpPoly]) {g : GenState} :
    jumpWith P g = GenState.zero ↔ g = GenState.zero :=
  (jumpWith_bijective hP).injective.eq_iff' (jumpWith_zero P)

/-- Settles O35: linear as a polynomial, bijective as a run. -/
theorem jumpsAreLinearBijections : Obligations.JumpsAreLinearBijections :=
  fun P hP => ⟨jumpWith_xor P, jumpWith_bijective hP, jumpWith_zero P, fun _ => mt (jumpWith_eq_zero_iff hP).mp⟩

theorem jumpWith_step (P : JumpTable) (g : GenState) : jumpWith P g.step = (jumpWith P g).step := by
  rw [jumpWithIsAPolynomialInStep, jumpWithIsAPolynomialInStep, combine_step]

/-- A linear map that commutes with `step()` commutes with every polynomial in it. -/
theorem map_combine_of_commute {f : GenState → GenState} (hxor : ∀ a b, f (a.xor b) = (f a).xor (f b))
    (hzero : f GenState.zero = GenState.zero) (hstep : Function.Commute f GenState.step) (c : Nat → Bool) (n : Nat)
    (g : GenState) : f (GenState.combine c n g) = GenState.combine c n (f g) := by
  induction n with
  | zero => exact hzero
  | succ n ih => rw [combine_succ, combine_succ, hxor, ih, apply_ite f, hzero, hstep.iterate_right n g]

/-- Settles O36: `jump_with` is linear and commutes with `step()`, so it does with `jump_with` of any other table. -/
theorem jumpsCommute : Obligations.JumpsCommute := by
  refine fun P Q g => ⟨jumpWith_step P g, ?_⟩
  rw [jumpWithIsAPolynomialInStep Q, jumpWithIsAPolynomialInStep Q,
    map_combine_of_commute (jumpWith_xor P) (jumpWith_zero P) (jumpWith_step P)]

/-- Settles O37: 2^64 runs of 2^128 steps. -/
theorem longJumpIs2pow64Jumps : Obligations.LongJumpIs2pow64Jumps := by
  intro g
  rw [funext jumpWith_jumpPoly, ← Function.iterate_mul, ← pow_add, jumpWith_longJumpPoly]

end Sys2Proof.Machine
end

-- Proofs of the statements about the zero state of 10_state.md and 70_reset_and_hazards.md
section
/-! PROOF. Which commands leave the zero state, and which reach it (10_state.md R29, 70_reset_and_hazards.md R187). -/

namespace Sys2Proof.Machine

/-! ### R187: what the commands do at the zero state -/

/-- Only `INIT` and `SETS` leave the zero state. -/
theorem wordsAfter_zero {i : Instr} (hinit : ∀ seed, i ≠ .init seed) (hsets : ∀ k v, i ≠ .sets k v) :
    wordsAfter i GenState.zero = GenState.zero := by
  cases i with
  | init seed => exact absurd rfl (hinit seed)
  | next | dbl => exact step_zero
  | int frm upto => rw [wordsAfter, step_zero, ite_self]
  | jump | ljump => exact jumpWith_zero _
  | sets k v => exact absurd rfl (hsets k v)
  | gets | illegal => rfl

@[simp] theorem fmtInt_zero (frm upto : Half) : fmtInt frm upto 0 = frm := by
  have hr : intRemainder frm upto 0 = 0 := Nat.zero_mod _
  rw [fmtInt_eq_ofInt, hr, Nat.cast_zero, add_zero, BitVec.ofInt_toInt]

/-- Settles O45: the responses to the output 0, and the fold of commands that all keep the zero state. -/
theorem zeroStateStaysZeroForEver : Obligations.ZeroStateStaysZeroForEver := by
  refine ⟨fun frm upto => ⟨?_, ?_, ?_, ?_, ?_⟩, fun is his => ?_⟩
  · simp only [effect_eq, wordsAfter, step_zero, responseTo, out_zero]
  · simp only [effect_eq, wordsAfter, step_zero, responseTo, out_zero, fmtDbl_zero]
  · simp only [effect_eq, wordsAfter, step_zero, responseTo, out_zero, fmtInt_zero, ite_self]
  · simp only [effect_eq, wordsAfter, jumpWith_zero, responseTo]
  · simp only [effect_eq, wordsAfter, jumpWith_zero, responseTo]
  · rw [effects_words]
    induction is with
    | nil => rfl
    | cons i is ih =>
      obtain ⟨⟨hinit, hsets⟩, hrest⟩ := List.forall_mem_cons.mp his
      rw [List.foldl_cons, wordsAfter_zero hinit hsets, ih hrest]

/-! ### R29: how the zero state is reached -/

/-- Settles O47: no seed gives the zero state, and draws and jumps take no other state to it. -/
theorem validStatesAreNeverZero : Obligations.ValidStatesAreNeverZero := by
  intro g hvalid
  induction hvalid with
  | init seed => exact expandSeed_ne_zero seed
  | draw _ ih => exact mt step_eq_zero_iff.mp ih
  | jump _ ih => exact mt (jumpWith_eq_zero_iff (by simp)).mp ih
  | ljump _ ih => exact mt (jumpWith_eq_zero_iff (by simp)).mp ih

/-- Of the commands only `SETS k, 0` takes another state to the zero state. -/
theorem eq_sets_zero_of_wordsAfter_eq_zero {i : Instr} {g : GenState} (hg : g ≠ GenState.zero)
    (h : wordsAfter i g = GenState.zero) : ∃ k, i = .sets k 0 := by
  cases i with
  | init seed => exact absurd h (expandSeed_ne_zero seed)
  | next | dbl => exact absurd (step_eq_zero_iff.mp h) hg
  | int frm upto =>
    by_cases heq : frm = upto
    · exact absurd ((if_pos heq).symm.trans h) hg
    · exact absurd (step_eq_zero_iff.mp ((if_neg heq).symm.trans h)) hg
  | jump | ljump => exact absurd ((jumpWith_eq_zero_iff (by simp)).mp h) hg
  | sets k v =>
    have hv : v = GenState.zero.get k := by rw [← h, wordsAfter, get_set_same]
    have hk : GenState.zero.get k = 0 := by fin_cases k <;> rfl
    exact ⟨k, by rw [hv, hk]⟩
  | gets | illegal => exact absurd h hg

/-- Settles O60: the four words change under reset or at the end of a command only. -/
theorem onlyResetAndSetsReachTheZeroState : Obligations.OnlyResetAndSetsReachTheZeroState := by
  intro s t hs h ht
  obtain ⟨hrst, -⟩ | ⟨-, -, rfl⟩ | ⟨f, n, -, -, -, rfl⟩ | ⟨f, g, r, -, hf, hwait, hexec, rfl⟩ := step_cases h
  · exact .inl hrst
  · exact absurd ((clock_S s).symm.trans ht) hs
  · exact absurd ((clock_S s).symm.trans ht) hs
  · have hwords : g = wordsAfter (decode f.word) s.S := by
      rw [← clock_S]
      exact congrArg State.S (eq_of_exec_eq_next hexec)
    obtain ⟨k, hk⟩ := eq_sets_zero_of_wordsAfter_eq_zero hs (hwords.symm.trans ht)
    exact .inr ⟨f, k, hf, hwait, hk⟩

end Sys2Proof.Machine
end

-- Proofs of the statements about the ports of 30_encoding.md and about runs of the block
section
/-! PROOF. What one clock edge does in each of its four cases, and the runs made of them: the ports stay consistent, a
command in flight waits its time and is answered, and a run owes and delivers what the atomic run responds
(30_encoding.md R56, R57, 70_reset_and_hazards.md R186, R190, R198). -/

namespace Sys2Proof.Machine

/-! ### The cases of a step -/

section Step

variable {s : State} {f : InFlight}

theorem step_of_rst (hrst : s.rst = true) : step s = .next s.afterReset := by
  rw [step, if_pos hrst]

theorem step_of_idle (hrst : s.rst = false) (hf : s.clock.inFlight = none) : step s = .next s.clock := by
  simp only [step, hrst, hf, Bool.false_eq_true, if_false]

theorem step_of_due (hrst : s.rst = false) (hf : s.clock.inFlight = some f) (hwait : f.wait = 0) :
    step s = retire f (exec (decode f.word) s.clock) := by
  simp only [step, hrst, hf, hwait, Bool.false_eq_true, if_false]

theorem step_of_waiting {n : Nat} (hrst : s.rst = false) (hf : s.clock.inFlight = some f) (hwait : f.wait = n + 1) :
    step s = .next (s.clock.waiting f n) := by
  simp only [step, hrst, hf, hwait, Bool.false_eq_true, if_false]

/-- A block with a command in flight accepts nothing. -/
theorem accepting_of_inFlight (hf : s.inFlight = some f) : s.accepting = none := by
  simp [State.accepting, hf]

theorem clock_inFlight_of_not_accepting (h : s.accepting = none) : s.clock.inFlight = s.inFlight := by
  rw [clock_not_accepting h]

theorem clock_inFlight_of_inFlight (hf : s.inFlight = some f) : s.clock.inFlight = some f :=
  (clock_inFlight_of_not_accepting (accepting_of_inFlight hf)).trans hf

theorem clock_inFlight_of_accepting {cw : CmdWord} (h : s.accepting = some cw) :
    s.clock.inFlight = some ⟨cw, (s.paceFor cw).wait, (s.paceFor cw).readyEarly⟩ := by
  rw [clock_accepting h]

/-- In every case the host goes one action on. -/
theorem host_of_step {t : State} (h : step s = .next t) : t.host = s.hostNext := by
  obtain ⟨-, rfl⟩ | ⟨-, -, rfl⟩ | ⟨f, n, -, -, -, rfl⟩ | ⟨f, g, r, -, -, -, -, rfl⟩ := step_cases h
  · exact afterReset_host s
  all_goals exact clock_host s

end Step

/-- Settles O49: each case of a step answers a next state. -/
theorem everyStepAnswersANextState : Obligations.EveryStepAnswersANextState :=
  exists_step

/-- Settles O48: in each of the three ways a command comes, it is in flight and due after the clock edge. -/
theorem stepRunsTheDecodedCommand : Obligations.StepRunsTheDecodedCommand := by
  refine ⟨fun s cw ha hwait => ?_, fun s f hrst hf hwait => ?_, fun s n w => ?_⟩
  · obtain ⟨hrst, -⟩ := accepting_eq_some.mp ha
    have hf := clock_inFlight_of_accepting ha
    rw [hwait] at hf
    exact ⟨step_of_due hrst hf rfl, clock_S s, clock_host s, clock_rsp s⟩
  · exact ⟨step_of_due hrst (clock_inFlight_of_inFlight hf) hwait, clock_S s, clock_host s, clock_rsp s⟩
  · have ha : (s.withFetchWord n w).accepting = some (BitVec.ofNat 68 (w % 2 ^ n)) := withCommand_accepting s _
    have hstep := step_of_due (withCommand_rst s _) (clock_inFlight_of_accepting ha) rfl
    refine ⟨_, rfl, hstep, clock_S _, ?_, ?_, clock_rsp _⟩
    · rw [clock_host, State.hostNext, State.withFetchWord, withCommand_host, withCommand_accepting]
      rfl
    · rw [clock_accepting ha]
      rfl

/-! ### R185, R186: reset -/

/-- Settles O51: the step of a reset, and of the other cases the two that have a command in flight. -/
theorem resetWins : Obligations.ResetWins := by
  refine ⟨fun s hrst => ⟨?_, ?_, _, step_of_rst hrst, rfl, rfl, rfl, rfl⟩, fun s t f hrst hf h => ?_⟩
  · simp [State.accepting, hrst]
  · simp [State.rspValid, State.delivering, hrst]
  · have hclock := clock_inFlight_of_inFlight hf
    obtain ⟨hrst', -⟩ | ⟨-, hidle, -⟩ | ⟨f', n, -, hf', hwait, rfl⟩ | ⟨f', g, r, -, hf', hwait, -, rfl⟩ := step_cases h
    · exact absurd hrst' (by simp [hrst])
    · exact absurd hidle (by simp [hclock])
    · obtain rfl : f = f' := Option.some.inj (hclock.symm.trans hf')
      exact .inr ⟨n, hwait, rfl, clock_S s, clock_rsp s⟩
    · obtain rfl : f = f' := Option.some.inj (hclock.symm.trans hf')
      exact .inl ⟨hwait, rfl, Option.some_ne_none r⟩

/-! ### R56, R57: the ports -/

/-- Settles O52: at reset nothing is in flight and `cmd_ready` is 1. -/
theorem resetMeetsPortConsistency : Obligations.ResetMeetsPortConsistency :=
  ⟨fun h => absurd reset_inFlight h, fun _ _ => reset_cmdReady⟩

/-- The clock edge leaves the ports consistent. -/
theorem portsOk_clock (s : State) : s.clock.PortsOk where
  busy h := ⟨by rw [clock_cmdReady, Option.isNone_eq_false_iff, Option.isSome_iff_ne_none]; exact h, clock_rsp s⟩
  idle h _ := by rw [clock_cmdReady, h]; rfl

/-- Whatever the ports were, a step leaves them consistent. -/
theorem portsOk_of_step {s t : State} (h : step s = .next t) : t.PortsOk := by
  obtain ⟨-, rfl⟩ | ⟨-, -, rfl⟩ | ⟨f, n, -, hf, -, rfl⟩ | ⟨f, g, r, -, -, -, -, rfl⟩ := step_cases h
  · exact ⟨fun h => absurd (afterReset_inFlight s) h, fun _ _ => afterReset_cmdReady s⟩
  · exact portsOk_clock s
  · exact ⟨fun _ => (portsOk_clock s).busy (by simp [hf]), fun h => absurd h (Option.some_ne_none _)⟩
  · exact ⟨fun h => absurd rfl h, fun _ h => absurd h (Option.some_ne_none r)⟩

/-- Settles O53: a reset, an idle, a waiting and a response cycle each have consistent ports. -/
theorem stepKeepsPortConsistency : Obligations.StepKeepsPortConsistency :=
  fun _ _ _ h => portsOk_of_step h

/-- With consistent ports, nothing is in flight while `cmd_ready` is 1. -/
theorem PortsOk_inFlight_of_cmdReady {s : State} (hs : s.PortsOk) (h : s.cmdReady = true) : s.inFlight = none := by
  by_contra hf
  obtain ⟨hready, -⟩ := hs.busy hf
  exact absurd h (by simp [hready])

/-- With consistent ports, nothing is in flight while a response is shown. -/
theorem PortsOk_inFlight_of_rsp {s : State} (hs : s.PortsOk) (h : s.rsp ≠ none) : s.inFlight = none := by
  by_contra hf
  exact h (hs.busy hf).2

theorem PortsOk_accepting_eq_some {s : State} (hs : s.PortsOk) (hrst : s.rst = false) {cw : CmdWord} :
    s.accepting = some cw ↔
      s.cmdReady = true ∧ ∃ rest, s.host = .send cw :: rest ∨ s.host = .offer cw :: rest := by
  rw [accepting_eq_some, presented_eq_some]
  exact ⟨fun ⟨_, hready, _, hhost⟩ => ⟨hready, hhost⟩,
    fun ⟨hready, hhost⟩ => ⟨hrst, hready, PortsOk_inFlight_of_cmdReady hs hready, hhost⟩⟩

theorem accepting_of_not_cmdReady {s : State} (h : s.cmdReady = false) : s.accepting = none := by
  simp [State.accepting, h]

/-- An accepted word that is not answered at once is in flight. -/
theorem inFlight_of_accepting_of_step {s t : State} {cw : CmdWord} (ha : s.accepting = some cw) (h : step s = .next t)
    (hrsp : t.rsp = none) : ∃ f, t.inFlight = some f ∧ f.word = cw := by
  obtain ⟨hrst, -⟩ := accepting_eq_some.mp ha
  have hclock := clock_inFlight_of_accepting ha
  obtain ⟨hrst', -⟩ | ⟨-, hidle, -⟩ | ⟨f, n, -, hf, -, rfl⟩ | ⟨f, g, r, -, -, -, -, rfl⟩ := step_cases h
  · exact absurd hrst' (by simp [hrst])
  · exact absurd hidle (by simp [hclock])
  · obtain rfl : _ = f := Option.some.inj (hclock.symm.trans hf)
    exact ⟨_, rfl, rfl⟩
  · exact absurd hrsp (Option.some_ne_none r)

/-- Settles O54: acceptance by the ports, and the host's next actions. -/
theorem handshakeReadyWindow : Obligations.HandshakeReadyWindow := by
  intro s t hs hrst h
  have hhost := host_of_step h
  refine ⟨fun cw => PortsOk_accepting_eq_some hs hrst, accepting_of_not_cmdReady,
    fun cw ha => inFlight_of_accepting_of_step ha h, fun hf => ((portsOk_of_step h).busy hf).1, fun hrsp ha => ?_,
    fun cw rest hsend => ⟨fun ha => ?_, fun ha => ?_⟩, fun cw rest hoffer => ?_⟩
  · have hidle : s.clock.inFlight = none :=
      (clock_inFlight_of_not_accepting ha).trans (PortsOk_inFlight_of_rsp hs hrsp)
    obtain rfl : s.clock = t := Host.Outcome.next.inj ((step_of_idle hrst hidle).symm.trans h)
    rw [clock_cmdReady, hidle]
    rfl
  · rw [hhost, State.hostNext, hsend]
    exact if_pos ha
  · rw [hhost, State.hostNext, hsend]
    exact if_neg (by simp [ha])
  · rw [hhost, State.hostNext, hoffer]

/-- Two clock edges that differ in the host only make two steps that do. -/
theorem step_of_clock_eq {s s' t : State} {l : List HostAction} (hrst : s.rst = false) (hrst' : s'.rst = false)
    (hclock : s'.clock = { s.clock with host := l }) (h : step s = .next t) :
    step s' = .next { t with host := l } := by
  have hinFlight : s'.clock.inFlight = s.clock.inFlight := by rw [hclock]
  obtain ⟨hr, -⟩ | ⟨-, hf, rfl⟩ | ⟨f, n, -, hf, hwait, rfl⟩ | ⟨f, g, r, -, hf, hwait, hexec, rfl⟩ := step_cases h
  · exact absurd hr (by simp [hrst])
  · rw [step_of_idle hrst' (hinFlight.trans hf), hclock]
  · rw [step_of_waiting hrst' (hinFlight.trans hf) hwait, hclock]
    rfl
  · rw [exec_eq] at hexec
    rw [step_of_due hrst' (hinFlight.trans hf) hwait, hclock, exec_eq, retire_next]
    cases hexec
    rfl

/-- Settles O55: a busy block accepts nothing from either host, so its clock edges differ in the host only. -/
theorem busyBlockIgnoresTheCommandPort : Obligations.BusyBlockIgnoresTheCommandPort := by
  intro s t h h' hbusy hrst hrst' hstep
  have hnone (l : List HostAction) : State.accepting { s with host := l } = none := by
    obtain hready | hf := hbusy
    · exact accepting_of_not_cmdReady hready
    · obtain ⟨f, hf⟩ := Option.ne_none_iff_exists'.mp hf
      exact accepting_of_inFlight (f := f) hf
  have hclock : State.clock { s with host := h' } =
      { State.clock { s with host := h } with host := State.hostNext { s with host := h' } } := by
    rw [clock_not_accepting (hnone h), clock_not_accepting (hnone h')]
  exact ⟨_, step_of_clock_eq hrst hrst' hclock hstep, rfl⟩

/-! ### R190: the four words -/

/-- Settles O56: only the last of the cases of a step, and reset, change the four words. -/
theorem stateChangesOnlyWithAResponse : Obligations.StateChangesOnlyWithAResponse := by
  intro s t h hne
  obtain ⟨hrst, -⟩ | ⟨-, -, rfl⟩ | ⟨f, n, -, -, -, rfl⟩ | ⟨f, g, r, -, hf, -, hexec, rfl⟩ := step_cases h
  · exact .inl hrst
  · exact absurd (clock_S s) hne
  · exact absurd (clock_S s) hne
  · have hcommand : s.accepting = some f.word ∨ ∃ f', s.inFlight = some f' ∧ f'.word = f.word := by
      obtain ⟨-, hf⟩ | ⟨ha, -⟩ := clock_inFlight hf
      · exact .inr ⟨f, hf, rfl⟩
      · exact .inl ha
    have heffect : effect (decode f.word) s.S = some (g, r) := by
      rw [← clock_S]
      exact effect_of_exec hexec
    exact .inr ⟨f.word, r, hcommand, heffect, rfl, rfl⟩

/-! ### R198: the time of a response -/

/-- A command in flight after the clock edge is answered after exactly the cycles it still waits. -/
theorem answered_after_wait {s : State} {f : InFlight} (hs : s.NoReset) (hf : s.clock.inFlight = some f) :
    (∃ t r, s.after (f.wait + 1) = some t ∧ t.NoReset ∧ t.rsp = some r ∧ t.inFlight = none ∧
      effect (decode f.word) s.S = some (t.S, r)) ∧
    ∀ j, 1 ≤ j → j ≤ f.wait → ∃ u, s.after j = some u ∧ u.rsp = none ∧ u.cmdReady = false ∧ u.S = s.S := by
  have hrst := NoReset_rst hs
  obtain ⟨w, wait, early⟩ := f
  induction wait generalizing s with
  | zero =>
    have hstep := step_of_due hrst hf rfl
    rw [exec_eq, retire_next] at hstep
    refine ⟨⟨_, responseTo (decode w) s.S, after_succ hstep 0, NoReset_step hs hstep, by rw [clock_S], rfl, ?_⟩,
      fun j hpos hle => absurd (hpos.trans hle) (Nat.not_succ_le_zero 0)⟩
    rw [effect_eq, clock_S]
  | succ n ih =>
    have hstep := step_of_waiting hrst hf rfl
    have hnext := NoReset_step hs hstep
    obtain ⟨⟨t, r, hafter, ht, hrsp, hidle, heffect⟩, hbetween⟩ :=
      ih hnext (NoReset_rst hnext) (clock_inFlight_of_inFlight rfl)
    rw [waiting_S, clock_S] at heffect
    refine ⟨⟨t, r, (after_succ hstep (n + 1)).trans hafter, ht, hrsp, hidle, heffect⟩, fun j hpos hle => ?_⟩
    obtain rfl | hlt := hpos.eq_or_lt
    · refine ⟨_, after_succ hstep 0, clock_rsp s, ?_, clock_S s⟩
      rw [waiting_cmdReady, clock_cmdReady, hf]
      rfl
    · obtain ⟨i, rfl⟩ := Nat.exists_eq_add_of_lt hlt
      obtain ⟨u, hu, hrsp, hready, hS⟩ := hbetween (1 + i) (by omega) (Nat.le_of_succ_le_succ hle)
      exact ⟨u, (after_succ hstep _).trans hu, hrsp, hready, hS.trans (clock_S s)⟩

theorem ports_of_rsp {t : State} {r : Response} (hrst : t.rst = false) (hrsp : t.rsp = some r) :
    t.rspValid = true ∧ t.rspData = r.data ∧ t.rspErr = r.err := by
  have hshown : t.delivering = some r := (delivering_of_rst_eq_false hrst).trans hrsp
  simp only [State.rspValid, State.rspData, State.rspErr, hshown, Option.isSome_some, and_self]

theorem rspValid_of_rsp_eq_none {t : State} (hrsp : t.rsp = none) : t.rspValid = false := by
  simp [State.rspValid, State.delivering, hrsp]

/-- Settles O57: an accepted command is in flight after the clock edge, and without reset the ports show `rsp`. -/
theorem acceptedCommandIsAnsweredInTime : Obligations.AcceptedCommandIsAnsweredInTime := by
  intro s cw ha hs
  obtain ⟨⟨t, r, hafter, ht, hrsp, hidle, heffect⟩, hbetween⟩ := answered_after_wait hs (clock_inFlight_of_accepting ha)
  obtain ⟨hvalid, hdata, herr⟩ := ports_of_rsp (NoReset_rst ht) hrsp
  refine ⟨⟨t, r, hafter, hrsp, hvalid, hdata, herr, hidle, heffect⟩, fun j hpos hle => ?_⟩
  obtain ⟨u, hu, hquiet, hready, hS⟩ := hbetween j hpos hle
  exact ⟨u, hu, rspValid_of_rsp_eq_none hquiet, hready, hS⟩

/-! ### R55: the atomic run -/

/-- What holds at the start and is kept by every step holds along the run. -/
theorem after_induction {K : State → Prop} (hstep : ∀ s t, K s → step s = .next t → K t) {s t : State} {n : Nat}
    (hs : K s) (h : s.after n = some t) : K t := by
  induction n generalizing s with
  | zero => exact Option.some.inj h ▸ hs
  | succ n ih =>
    obtain ⟨u, hu⟩ := exists_step s
    exact ih (hstep s u hs hu) ((after_succ hu n).symm.trans h)

/-- From an idle state, no run shows a response while a command is in flight. -/
theorem rsp_eq_none_of_after {s t : State} {n : Nat} (hidle : s.inFlight = none) (h : s.after n = some t)
    (hf : t.inFlight ≠ none) : t.rsp = none :=
  after_induction (K := fun u => u.inFlight ≠ none → u.rsp = none)
    (fun _ _ _ hu hf => ((portsOk_of_step hu).busy hf).2) (fun hf => absurd hidle hf) h hf

/-- Settles O58: what is owed at the end of the run is the response shown and that of the command in flight. -/
theorem handshakeAbstractionIsExact : Obligations.HandshakeAbstractionIsExact := by
  intro s t n hidle hrsp hs hafter
  obtain ⟨t', hafter', howed⟩ := owed_accepted n hs
  obtain rfl : t = t' := Option.some.inj (hafter.symm.trans hafter')
  rw [owed_of_idle hidle hrsp] at howed
  cases hf : t.inFlight with
  | none =>
    have hdone : t.owed [] = some (t.S, t.rsp.toList) := by
      simp [State.owed, State.underWay, hf, effects, prependResponses]
    refine ⟨t.S, s.delivered n ++ t.rsp.toList, by rw [howed, hdone]; rfl, fun _ => ⟨rfl, rfl⟩, fun f h => ?_⟩
    cases h
  | some f =>
    have hquiet : t.rsp = none := rsp_eq_none_of_after hidle hafter (by simp [hf])
    obtain ⟨g, r, heffect⟩ := exists_effect (decode f.word) t.S
    have hdue : t.owed [] = some (g, [r]) := by
      simp [State.owed, State.underWay, hf, hquiet, effects_cons heffect, effects, prependResponses]
    refine ⟨g, s.delivered n ++ [r], by rw [howed, hdue]; rfl, fun h => ?_, fun f' h => ?_⟩
    · cases h
    · cases h
      exact ⟨r, heffect, rfl⟩

end Sys2Proof.Machine
end
